-- ==== Sys2Proof/Word.lean ====
section
/-! DEFINITION. The block's plain quantities and fixed-length tables of them. -/

namespace Sys2Proof

/-- A byte of a frame. -/
abbrev Byte := BitVec 8
/-- A hold, wait, TTL, grace or guard value, in ticks (00_scope.md 2.3). -/
abbrev Ticks := BitVec 16
/-- A lease clock value (R71). -/
abbrev Clock := BitVec 32
/-- A fencing token (R20). -/
abbrev Token := BitVec 48
/-- A client number, C0 to C3. -/
abbrev Client := Fin 4
/-- A resource number. -/
abbrev Res := Fin 64
/-- A wait entry's pool index (R46). -/
abbrev PoolIx := Fin 32
/-- A gate number, G0 to G15. -/
abbrev Gate := Fin 16

/-- Entry `i` of a table. -/
def Vec.get {α : Type} {n : Nat} (v : Vector α n) (i : Fin n) : α := v[i.val]

/-- The table with entry `i` replaced. -/
def Vec.set {α : Type} {n : Nat} (v : Vector α n) (i : Fin n) (a : α) : Vector α n :=
  Vector.set v i.val a i.isLt

end Sys2Proof
end

