-- ==== Sys2Proof/Syntax.lean ====
section
/-! DEFINITION. The commands of the block, one constructor per row of spec/opcode_table.json.

A request carries what its frame carries on the wire (entry 1): the tag, the parameter bytes and
the CRC byte. The request code is the row's own, and the length byte is the number of parameter
bytes. A client command also names the port it arrives on, which is the client (R145). -/

namespace Sys2Proof

/-- Where a tick comes from (R69): the divided reference clock, or the TICK pin. -/
inductive TickSource where
  | internal
  | external
  deriving DecidableEq, Repr

/-- What ends a supervisor write transaction (R164): a STOP, or a repeated START with another
address, with the port's own address and the write bit, or with its own address and the read
bit. -/
inductive WriteEnd where
  | stop
  | restartOther
  | restartWrite
  | restartRead
  deriving DecidableEq, Repr

/-- The commands. -/
inductive Instr where
  -- client requests (TABLE 9-1)
  | status (p : Client) (tag : Byte) (params : List Byte) (crc : Byte)
  | openSession (p : Client) (tag : Byte) (params : List Byte) (crc : Byte)
  | closeSession (p : Client) (tag : Byte) (params : List Byte) (crc : Byte)
  | keepalive (p : Client) (tag : Byte) (params : List Byte) (crc : Byte)
  | claim (p : Client) (tag : Byte) (params : List Byte) (crc : Byte)
  | renew (p : Client) (tag : Byte) (params : List Byte) (crc : Byte)
  | release (p : Client) (tag : Byte) (params : List Byte) (crc : Byte)
  | downgrade (p : Client) (tag : Byte) (params : List Byte) (crc : Byte)
  | upgrade (p : Client) (tag : Byte) (params : List Byte) (crc : Byte)
  | withdraw (p : Client) (tag : Byte) (params : List Byte) (crc : Byte)
  | query (p : Client) (tag : Byte) (params : List Byte) (crc : Byte)
  | fetch (p : Client) (tag : Byte) (params : List Byte) (crc : Byte)
  | setAttention (p : Client) (tag : Byte) (params : List Byte) (crc : Byte)
  -- client link events
  /-- A whole frame whose request code names no client request (R148). -/
  | clientUnknownRequest (p : Client) (code tag : Byte) (params : List Byte) (crc : Byte)
  /-- A code, a tag and a length byte of 17 or more (R147). -/
  | clientBadLength (p : Client) (code tag len : Byte)
  /-- CS rises; `arrived` is the complete bytes clocked in since the port's last event (R151). -/
  | cutTransaction (p : Client) (arrived : List Byte)
  -- supervisor requests (TABLE 10-2)
  | define (tag : Byte) (params : List Byte) (crc : Byte)
  | amend (tag : Byte) (params : List Byte) (crc : Byte)
  | retire (tag : Byte) (params : List Byte) (crc : Byte)
  | inspectResource (tag : Byte) (params : List Byte) (crc : Byte)
  | inspectQueue (tag : Byte) (params : List Byte) (crc : Byte)
  | revoke (tag : Byte) (params : List Byte) (crc : Byte)
  | bindGate (tag : Byte) (params : List Byte) (crc : Byte)
  | unbindGate (tag : Byte) (params : List Byte) (crc : Byte)
  | readGates (tag : Byte) (params : List Byte) (crc : Byte)
  | setPolicy (tag : Byte) (params : List Byte) (crc : Byte)
  | evict (tag : Byte) (params : List Byte) (crc : Byte)
  | inspectClient (tag : Byte) (params : List Byte) (crc : Byte)
  | setTimebase (tag : Byte) (params : List Byte) (crc : Byte)
  | listDeadlines (tag : Byte) (params : List Byte) (crc : Byte)
  | readEvents (tag : Byte) (params : List Byte) (crc : Byte)
  | ackEvents (tag : Byte) (params : List Byte) (crc : Byte)
  | setEventMask (tag : Byte) (params : List Byte) (crc : Byte)
  | clearAll (tag : Byte) (params : List Byte) (crc : Byte)
  -- supervisor link events
  /-- A whole frame whose code names no supervisor request (R163). -/
  | supervisorUnknownRequest (code tag : Byte) (params : List Byte) (crc : Byte)
  /-- A code, a tag and a length byte of 17 or more (R162). -/
  | supervisorBadLength (code tag len : Byte)
  /-- A write transaction ends after `arrived` data bytes, before a request was taken (R164). -/
  | incomplete (arrived : List Byte) (ending : WriteEnd)
  -- lease clock events
  /-- A tick from `src` (R70, R77). -/
  | tickEvent (src : TickSource)
  | holdDeadlineExpiry (r : Res) (c : Client)
  | waitDeadlineExpiry (i : PoolIx)
  | lapse (c : Client)
  | graceExpiry (r : Res)
  | guardExpiry (r : Res)
  /-- A device reset; at its end the straps ADDR1 ADDR0 read `straps` and CSn is low where bit n
  of `csLow` is set (R145, R161, R176). -/
  | deviceReset (straps : BitVec 2) (csLow : BitVec 4)
  deriving DecidableEq, Repr

end Sys2Proof
end

