-- ==== Sys2Proof/Decode.lean ====
section
/-! DEFINITION. The command a word of spec/opcode_table.json's bits spells. No row of the table
gives bits (every row's "fields" is empty and none has "fixed"), so no word spells a command. The
bytes of the frames on the ports are read in Machine/Operands.lean and Machine/LinkEvents.lean. -/

namespace Sys2Proof

def decodeTableWord (_nbits _w : Nat) : Option Instr := none

end Sys2Proof
end

