-- ==== Sys2Proof/Config.lean ====
section
/-! DEFINITION. What is fixed for the machine. The spec leaves no response, register or notice
value open, so there is no free value here; the two levels the board decides at power-on are the
model's choice (notes/assumptions/8.md). -/

namespace Sys2Proof

/-- The device code STATUS reports (R158). -/
def Config.deviceCode : BitVec 16 := 0x4A64

/-- The I2C address before the straps are added (R161). -/
def Config.baseAddress : BitVec 7 := 0x6C

/-- DESIGN CHOICE (unsafe, entry 8): the straps ADDR1 ADDR0 at the reset that `State.reset`
stands for. -/
def Config.resetStraps : BitVec 2 := 0

/-- DESIGN CHOICE (unsafe, entry 8): which CS pins are low (bit n for CSn) at the end of the
reset that `State.reset` stands for. -/
def Config.resetCsLow : BitVec 4 := 0

end Sys2Proof
end

