-- ==== Sys2Proof/Machine/State.lean ====
section
/-! DEFINITION. The state of the block as plain data, the reasons a step can stop, and the state
after reset. Pin levels, the tally and the ticks remaining to a deadline follow from the state and
are computed where they are read (entries 10 and 11). -/

namespace Sys2Proof.Machine

/-- The fault type has no constructor: no command of this block stops the machine (a request that
is refused is answered with a status and the block goes on). -/
inductive Fault where
  deriving DecidableEq, Repr

/-- Why a step is refused. -/
inductive Refusal where
  /-- Raised by `exec` alone, for a command that has no meaning yet; safe. No arm raises it. -/
  | notModelled (mnemonic : String)
  deriving DecidableEq, Repr

/-- Status codes (TABLE 11-4). -/
inductive Status where
  | ok | granted | queued | empty
  | badFrame | badLength | unknownRequest | badParams | tagReused | incomplete
  | portDisabled | noSession | alreadyOpen | lapseUnread | ttlRefused
  | noResource | offline | retiring | notPermitted | modeRefused | alreadyHeld | alreadyWaiting
  | notHeld | notWaiting | quota | poolFull | busy | upgradeConflict | revoking | exhausted
  | alreadyDefined | inUse | alreadyRevoking | gateBound | noGate | liveDeadlines | noClient
  | notAttached
  deriving DecidableEq, Repr

/-- A response frame by its fields (TABLE 11-1); its length and CRC bytes follow from them. -/
structure Response where
  status : Status
  /-- The tag echo. -/
  tag : Byte
  /-- Flags bit 0. -/
  replay : Bool
  payload : List Byte
  deriving DecidableEq, Repr

/-! Lease table (Chapters 1 and 2) -/

/-- The mode of a lease or a claim. -/
inductive Mode where
  | shared | exclusive
  deriving DecidableEq, Repr

/-- The five record states (R2). -/
inductive RecordState where
  | offline | idle | held | revoking | draining
  deriving DecidableEq, Repr

/-- The modes permitted attribute; `none` is the cleared value (TABLE 1-3). -/
inductive ModesPermitted where
  | none | exclusiveOnly | sharedOnly | either
  deriving DecidableEq, Repr

/-- The resource deadline field (TABLE 1-3). -/
inductive ResourceDeadline where
  | absent | grace | guard
  deriving DecidableEq, Repr

/-- A lease (TABLE 2-1). Its hold deadline stands in the deadline list (entry 11). -/
structure Lease where
  token : Token
  grantedAt : Clock
  deriving DecidableEq, Repr

/-- The six attributes that DEFINE and AMEND write (R1, R5). Bit n of `mask` is client Cn. -/
structure Attributes where
  modes : ModesPermitted
  mask : BitVec 4
  maxHold : Ticks
  defaultHold : Ticks
  guard : Ticks
  grace : Ticks
  deriving DecidableEq, Repr

/-- A resource record (TABLE 1-3). Its wait queue is held by the wait pool (R1). -/
structure Record where
  state : RecordState
  /-- `none` is the reported mode NONE. -/
  heldMode : Option Mode
  slots : Vector (Option Lease) 4
  attrs : Attributes
  retirePending : Bool
  deadline : ResourceDeadline
  deriving DecidableEq, Repr

/-! Wait pool (Chapter 3) -/

/-- The kind of a wait entry (R47). -/
inductive WaitKind where
  | shared | exclusive | upgrade
  deriving DecidableEq, Repr

/-- A wait entry in use (TABLE 3-1). Its wait deadline stands in the deadline list (entry 11). -/
structure WaitEntry where
  resource : Res
  client : Client
  kind : WaitKind
  hold : Ticks
  deriving DecidableEq, Repr

/-! Lease clock and deadline list (Chapter 4) -/

/-- The kind and owner of a deadline entry (TABLE 4-2). -/
inductive DeadlineId where
  | hold (r : Res) (c : Client)
  | wait (i : PoolIx)
  | session (c : Client)
  | grace (r : Res)
  | guard (r : Res)
  deriving DecidableEq, Repr

/-- A deadline entry (R72). -/
structure Deadline where
  id : DeadlineId
  due : Clock
  deriving DecidableEq, Repr

/-- The timebase setting (R69). -/
structure Timebase where
  source : TickSource
  period : Fin 4
  deriving DecidableEq, Repr

/-! Session unit (Chapter 6) -/

/-- The three port states (R105). -/
inductive PortState where
  | detached | attached | lapsed
  deriving DecidableEq, Repr

/-- A client's policy (TABLE 6-1). -/
structure Policy where
  enabled : Bool
  maxTtl : Ticks
  unwatched : Bool
  deriving DecidableEq, Repr

/-- A client context (TABLE 6-1). The tally is the size of `involved` (R104). -/
structure Session where
  port : PortState
  number : BitVec 16
  ttl : Ticks
  /-- The involvement set: entry r is set when resource r is in it (R118). -/
  involved : Vector Bool 64
  policy : Policy
  deriving DecidableEq, Repr

/-! Notice queues (Chapter 7) -/

/-- What a resource notice says: its kind, with the token for the kinds that carry one
(TABLE 7-2). -/
inductive ResourceWord where
  | granted (t : Token)
  | claimTimedOut
  | claimCancelled
  | leaseExpired (t : Token)
  | revokeWarning (t : Token)
  | leaseRevoked (t : Token)
  deriving DecidableEq, Repr

/-- A notice (R123). -/
inductive Notice where
  | resource (r : Res) (what : ResourceWord) (superseded : Byte)
  | sessionLapsed (number : BitVec 16)
  | sessionEvicted (number : BitVec 16)
  deriving DecidableEq, Repr

/-- A client's notice queue, oldest first, and its attention mask, bit k-1 for resource notice
kind k (R124, R132). -/
structure NoticeQueue where
  queue : List Notice
  mask : BitVec 6
  deriving DecidableEq, Repr

/-! Gate unit (Chapter 8) -/

inductive Cover where
  | exclusiveOnly | anyMode
  deriving DecidableEq, Repr

inductive Polarity where
  | highActive | lowActive
  deriving DecidableEq, Repr

/-- A bound gate's four fields (TABLE 8-1). -/
structure Binding where
  resource : Res
  client : Client
  cover : Cover
  polarity : Polarity
  deriving DecidableEq, Repr

/-! Ports (Chapters 9 and 10) -/

/-- A CPI's framing state (R145): RECEIVING holds its receive buffer, RESPONDING the response that
follows the marker and how many bytes have gone out, the marker among them (R150). -/
inductive CpiFraming where
  | idle
  | receiving (buffer : List Byte)
  | responding (response : Response) (sent : Nat)
  | done
  deriving DecidableEq, Repr

/-- A client port interface: its framing, its replay record (R153) and its link error count
(R157). -/
structure Cpi where
  framing : CpiFraming
  lastTag : Byte
  lastRequest : List Byte
  lastResponse : Option Response
  linkErrors : Byte
  deriving DecidableEq, Repr

/-- The supervisor port's framing state (R161): RECEIVING holds its receive buffer, SENDING how many
bytes have gone out and whether the port still drives SDA, which a byte that the controller did not
acknowledge ends (R165). -/
inductive SupervisorFraming where
  | idle
  | receiving (buffer : List Byte)
  | discarding
  | sending (sent : Nat) (driving : Bool)
  deriving DecidableEq, Repr

/-- The supervisor port (R161, R166, R167, R170). -/
structure Supervisor where
  address : BitVec 7
  framing : SupervisorFraming
  stored : Response
  /-- The event set, in the bits of TABLE 11-2. -/
  events : BitVec 11
  /-- The event mask, in the same bits. -/
  mask : BitVec 11
  deriving DecidableEq, Repr

/-- An event on the wires of the ports that no row of the table names (entry 3). -/
inductive BusEvent where
  /-- CS falls on a client port (R145). -/
  | csFall (p : Client)
  /-- CS rises on a client port (R145, R151, R152). -/
  | csRise (p : Client)
  /-- A whole byte is clocked on a client port: `si` on SI, the port's own on SO (R146, R150). -/
  | clock (p : Client) (si : Byte)
  /-- A START or a repeated START with an address byte and its direction bit (R161). -/
  | start (address : BitVec 7) (read : Bool)
  /-- The controller sends a data byte of a write (R162, R163). -/
  | write (b : Byte)
  /-- The controller takes a byte of a read and acknowledges it or not (R165). -/
  | read (ack : Bool)
  /-- A STOP (R161). -/
  | stop
  deriving DecidableEq, Repr

/-- The state of the block. -/
structure State where
  /-- The 64 resource records (R1). -/
  records : Vector Record 64
  /-- The token counter: the next token to be issued, 0 once exhausted (R20, R21, entry 9). -/
  nextToken : Token
  /-- The wait pool (R46). -/
  entries : Vector (Option WaitEntry) 32
  /-- Each resource's wait queue, head first (R49). -/
  queues : Vector (List PoolIx) 64
  /-- The lease clock (R71). -/
  clock : Clock
  /-- The timebase setting (R69). -/
  timebase : Timebase
  /-- Reference-clock periods counted since the last tick or restart (R70). -/
  refCount : Nat
  /-- The deadline list, head first (R75). -/
  deadlines : List Deadline
  /-- The four client contexts (R104). -/
  sessions : Vector Session 4
  /-- The four notice queues (R124). -/
  notices : Vector NoticeQueue 4
  /-- The sixteen gate bindings (R136). -/
  gates : Vector (Option Binding) 16
  /-- The four client port interfaces. -/
  cpis : Vector Cpi 4
  /-- The supervisor port. -/
  supervisor : Supervisor
  /-- The commands that wait, first in, first out. -/
  pending : List Instr
  /-- The events on the wires that wait, first in, first out; one is taken when no command waits
  (entry 3). -/
  bus : List BusEvent
  deriving DecidableEq, Repr

/-- The cleared attributes of TABLE 1-3. -/
def Attributes.cleared : Attributes :=
  { modes := .none, mask := 0, maxHold := 0, defaultHold := 0, guard := 0, grace := 0 }

/-- A record at its reset values, which is also an OFFLINE record (TABLE 1-3, R4). -/
def Record.cleared : Record :=
  { state := .offline, heldMode := none, slots := Vector.replicate 4 none
    attrs := Attributes.cleared, retirePending := false, deadline := .absent }

/-- A client context at its reset values (TABLE 6-1). -/
def Session.reset : Session :=
  { port := .detached, number := 0, ttl := 0, involved := Vector.replicate 64 false
    policy := { enabled := true, maxTtl := 65535, unwatched := false } }

/-- A CPI at its reset values (R145, R160). -/
def Cpi.reset : Cpi :=
  { framing := .idle, lastTag := 0, lastRequest := [], lastResponse := none, linkErrors := 0 }

/-- The supervisor port's response before any write has reached it (R165). -/
def Response.atReset : Response :=
  { status := .empty, tag := 0, replay := false, payload := [] }

/-- The machine right after reset (R16, R45, R68, R84, R121, R135, R144, R160, R165, R167, R170).
The straps and CS levels are those of Config (entry 8). -/
def State.reset : State :=
  { records := Vector.replicate 64 Record.cleared
    nextToken := 1
    entries := Vector.replicate 32 none
    queues := Vector.replicate 64 []
    clock := 0
    timebase := { source := .internal, period := 2 }
    refCount := 0
    deadlines := []
    sessions := Vector.replicate 4 Session.reset
    notices := Vector.replicate 4 { queue := [], mask := BitVec.allOnes 6 }
    gates := Vector.replicate 16 none
    cpis := Vector.ofFn fun p =>
      if Config.resetCsLow.getLsbD p.val then { Cpi.reset with framing := .done } else Cpi.reset
    supervisor :=
      { address := Config.baseAddress + Config.resetStraps.setWidth 7
        framing := .idle, stored := Response.atReset, events := 0, mask := 0 }
    pending := []
    bus := [] }

end Sys2Proof.Machine
end

