-- ==== Sys2Proof/Machine/Operands.lean ====
section
/-! DEFINITION. The bytes of the wire: byte order, value codes, request and status codes, the CRC,
request frames and response frames (Chapter 11), and how the bytes of a transaction are read as a
frame (R146, R162). -/

namespace Sys2Proof.Machine

/-! Byte order (R173): most significant byte first. -/

/-- The `n` bytes of `v`, most significant first. -/
def bytesOf {w : Nat} (n : Nat) (v : BitVec w) : List Byte :=
  (List.range n).map fun k => (v >>> (8 * (n - 1 - k))).setWidth 8

/-- A two-byte field. -/
def half (hi lo : Byte) : BitVec 16 := hi ++ lo

/-- A count sent in one byte. -/
def countByte (n : Nat) : Byte := BitVec.ofNat 8 n

/-- A yes or no field sent in one byte, or bit 0 of a flag byte whose other bits are 0 by choice
(entry 16). -/
def flagByte (b : Bool) : Byte := if b then 1 else 0

/-- A set of resources as an eight-byte field's value: bit n for resource n (R173). -/
def resourceSet (f : Res → Bool) : BitVec 64 := BitVec.ofFnLE f

/-! Numbers in one byte -/

/-- The number a byte spells, if it is below `n`. -/
def numberBelow (n : Nat) (b : Byte) : Option (Fin n) :=
  if h : b.toNat < n then some ⟨b.toNat, h⟩ else none

/-- The byte that spells a number below 256. -/
def numberByte {n : Nat} (i : Fin n) : Byte := BitVec.ofNat 8 i.val

/-! Value codes (TABLE 11-2) -/

/-- CLAIM mode. -/
def modeOf (b : Byte) : Option Mode :=
  if b = 0 then some .shared else if b = 1 then some .exclusive else none

def Mode.claimCode : Mode → Byte
  | .shared => 0
  | .exclusive => 1

/-- Modes permitted; the code of NONE is no value a request may carry (R5). -/
def modesPermittedOf (b : Byte) : Option ModesPermitted :=
  if b = 1 then some .exclusiveOnly else if b = 2 then some .sharedOnly
  else if b = 3 then some .either else none

def ModesPermitted.code : ModesPermitted → Byte
  | .none => 0
  | .exclusiveOnly => 1
  | .sharedOnly => 2
  | .either => 3

/-- Held mode, NONE for no mode. -/
def heldModeCode : Option Mode → Byte
  | none => 0
  | some .shared => 1
  | some .exclusive => 2

def RecordState.code : RecordState → Byte
  | .offline => 0
  | .idle => 1
  | .held => 2
  | .revoking => 3
  | .draining => 4

def WaitKind.code : WaitKind → Byte
  | .shared => 1
  | .exclusive => 2
  | .upgrade => 3

def PortState.code : PortState → Byte
  | .detached => 0
  | .attached => 1
  | .lapsed => 2

def ResourceDeadline.code : ResourceDeadline → Byte
  | .absent => 0
  | .grace => 4
  | .guard => 5

def DeadlineId.kindCode : DeadlineId → Byte
  | .hold _ _ => 1
  | .wait _ => 2
  | .session _ => 3
  | .grace _ => 4
  | .guard _ => 5

/-- The two owner bytes of a LIST DEADLINES entry (R175). -/
def DeadlineId.ownerBytes : DeadlineId → List Byte
  | .hold r c => [numberByte r, numberByte c]
  | .wait i => [numberByte i, 0]
  | .session c => [numberByte c, 0]
  | .grace r => [numberByte r, 0]
  | .guard r => [numberByte r, 0]

/-- The number of a resource notice kind, 1 to 6. -/
def ResourceWord.kind : ResourceWord → Nat
  | .granted _ => 1
  | .claimTimedOut => 2
  | .claimCancelled => 3
  | .leaseExpired _ => 4
  | .revokeWarning _ => 5
  | .leaseRevoked _ => 6

/-- The token of a notice, 0 where the kind carries none (R173). -/
def ResourceWord.token : ResourceWord → Token
  | .granted t => t
  | .claimTimedOut => 0
  | .claimCancelled => 0
  | .leaseExpired t => t
  | .revokeWarning t => t
  | .leaseRevoked t => t

/-- A notice as FETCH sends it after the remaining count: kind, resource (0xFF if absent), token,
superseded, session number (TABLE 11-5). -/
def Notice.bytes : Notice → List Byte
  | .resource r w n => [countByte w.kind, numberByte r] ++ bytesOf 6 w.token ++ [n, 0, 0]
  | .sessionLapsed k => [7, 0xFF] ++ bytesOf 6 (0 : Token) ++ [0] ++ bytesOf 2 k
  | .sessionEvicted k => [8, 0xFF] ++ bytesOf 6 (0 : Token) ++ [0] ++ bytesOf 2 k

def coverOf (b : Byte) : Option Cover :=
  if b = 0 then some .exclusiveOnly else if b = 1 then some .anyMode else none

def polarityOf (b : Byte) : Option Polarity :=
  if b = 0 then some .highActive else if b = 1 then some .lowActive else none

def Cover.code : Cover → Byte
  | .exclusiveOnly => 0
  | .anyMode => 1

def Polarity.code : Polarity → Byte
  | .highActive => 0
  | .lowActive => 1

def sourceOf (b : Byte) : Option TickSource :=
  if b = 0 then some .internal else if b = 1 then some .external else none

def tickSourceCode : TickSource → Byte
  | .internal => 0
  | .external => 1

/-- A yes or no parameter byte, 0 or 1. -/
def flagOf (b : Byte) : Option Bool :=
  if b = 0 then some false else if b = 1 then some true else none

/-- A set of `n` flags in a wider field; none when a bit outside the `n` is set (R173). -/
def flagsBelow {w : Nat} (n : Nat) (v : BitVec w) : Option (BitVec n) :=
  if v.toNat < 2 ^ n then some (v.setWidth n) else none

def Status.code : Status → Byte
  | .ok => 0x00
  | .granted => 0x01
  | .queued => 0x02
  | .empty => 0x03
  | .badFrame => 0x10
  | .badLength => 0x11
  | .unknownRequest => 0x12
  | .badParams => 0x13
  | .tagReused => 0x14
  | .incomplete => 0x15
  | .portDisabled => 0x20
  | .noSession => 0x21
  | .alreadyOpen => 0x22
  | .lapseUnread => 0x23
  | .ttlRefused => 0x24
  | .noResource => 0x30
  | .offline => 0x31
  | .retiring => 0x32
  | .notPermitted => 0x33
  | .modeRefused => 0x34
  | .alreadyHeld => 0x35
  | .alreadyWaiting => 0x36
  | .notHeld => 0x37
  | .notWaiting => 0x38
  | .quota => 0x39
  | .poolFull => 0x3A
  | .busy => 0x3B
  | .upgradeConflict => 0x3C
  | .revoking => 0x3D
  | .exhausted => 0x3E
  | .alreadyDefined => 0x40
  | .inUse => 0x41
  | .alreadyRevoking => 0x42
  | .gateBound => 0x43
  | .noGate => 0x44
  | .liveDeadlines => 0x45
  | .noClient => 0x46
  | .notAttached => 0x47

/-! Request codes (TABLE 11-3) -/

def codeStatus : Byte := 0x01
def codeOpen : Byte := 0x02
def codeClose : Byte := 0x03
def codeKeepalive : Byte := 0x04
def codeClaim : Byte := 0x10
def codeRenew : Byte := 0x11
def codeRelease : Byte := 0x12
def codeDowngrade : Byte := 0x13
def codeUpgrade : Byte := 0x14
def codeWithdraw : Byte := 0x15
def codeQuery : Byte := 0x16
def codeFetch : Byte := 0x20
def codeSetAttention : Byte := 0x21
def codeDefine : Byte := 0x40
def codeAmend : Byte := 0x41
def codeRetire : Byte := 0x42
def codeInspectResource : Byte := 0x43
def codeInspectQueue : Byte := 0x44
def codeRevoke : Byte := 0x45
def codeBindGate : Byte := 0x50
def codeUnbindGate : Byte := 0x51
def codeReadGates : Byte := 0x52
def codeSetPolicy : Byte := 0x58
def codeEvict : Byte := 0x59
def codeInspectClient : Byte := 0x5A
def codeSetTimebase : Byte := 0x60
def codeListDeadlines : Byte := 0x61
def codeReadEvents : Byte := 0x68
def codeAckEvents : Byte := 0x69
def codeSetEventMask : Byte := 0x6A
def codeClearAll : Byte := 0x7F

/-- The thirteen client request codes. -/
def clientCodes : List Byte :=
  [codeStatus, codeOpen, codeClose, codeKeepalive, codeClaim, codeRenew, codeRelease,
   codeDowngrade, codeUpgrade, codeWithdraw, codeQuery, codeFetch, codeSetAttention]

/-- The eighteen supervisor request codes. -/
def supervisorCodes : List Byte :=
  [codeDefine, codeAmend, codeRetire, codeInspectResource, codeInspectQueue, codeRevoke,
   codeBindGate, codeUnbindGate, codeReadGates, codeSetPolicy, codeEvict, codeInspectClient,
   codeSetTimebase, codeListDeadlines, codeReadEvents, codeAckEvents, codeSetEventMask,
   codeClearAll]

/-! The CRC (R174) -/

/-- One of the eight shifts. -/
def crcShift (reg : Byte) : Byte :=
  if reg.msb then (reg <<< 1) ^^^ 0x9B else reg <<< 1

/-- The register after one covered byte. -/
def crcByte (reg b : Byte) : Byte :=
  crcShift (crcShift (crcShift (crcShift (crcShift (crcShift (crcShift (crcShift (reg ^^^ b))))))))

/-- The CRC of the covered bytes. -/
def crcOf (bytes : List Byte) : Byte := bytes.foldl crcByte 0xFF

/-! Frames (R172) -/

/-- The longest parameter list a length byte admits (R146, R162). -/
def maxParams : Nat := 16

/-- A request frame; its length byte is the number of parameter bytes. -/
structure Frame where
  code : Byte
  tag : Byte
  params : List Byte
  crc : Byte
  deriving DecidableEq, Repr

/-- The bytes the CRC covers. -/
def Frame.covered (f : Frame) : List Byte :=
  f.code :: f.tag :: countByte f.params.length :: f.params

/-- All bytes of the frame. -/
def Frame.bytes (f : Frame) : List Byte := f.covered ++ [f.crc]

/-- The CRC byte is right. -/
def Frame.intact (f : Frame) : Bool := f.crc == crcOf f.covered

/-- The CRC byte that makes a frame intact. -/
def goodCrc (code tag : Byte) (params : List Byte) : Byte :=
  crcOf (code :: tag :: countByte params.length :: params)

/-- The response bytes the CRC covers. -/
def Response.covered (r : Response) : List Byte :=
  [r.status.code, r.tag, flagByte r.replay, countByte r.payload.length] ++ r.payload

/-- All bytes of the response frame. -/
def Response.bytes (r : Response) : List Byte := r.covered ++ [crcOf r.covered]

/-- The marker before a client response (R150). -/
def marker : Byte := 0x5C

/-- What the bytes of one transaction come to. -/
inductive Reception where
  /-- The CRC byte has not arrived. -/
  | short
  /-- The length byte was 17 or more. -/
  | badLength (tag : Byte)
  /-- The CRC byte has arrived. -/
  | whole (f : Frame)
  deriving DecidableEq, Repr

/-- Reading received bytes (R146, R147, R162); bytes after the one that ends RECEIVING are
ignored. -/
def receive (bytes : List Byte) : Reception :=
  match bytes with
  | code :: tag :: len :: rest =>
    if maxParams < len.toNat then .badLength tag
    else
      match rest.drop len.toNat with
      | [] => .short
      | last :: _ => .whole { code, tag, params := rest.take len.toNat, crc := last }
  | _ => .short

/-- The tag echo of a cut frame: the tag if it had arrived, else 0 (R164). -/
def arrivedTag (bytes : List Byte) : Byte :=
  match bytes with
  | _ :: tag :: _ => tag
  | _ => 0

/-! Requests as frames for software: the parameters in the order of TABLE 9-1 and TABLE 10-2. -/

def claimParams (r : Byte) (m : Mode) (hold wait : Ticks) : List Byte :=
  [r, m.claimCode] ++ bytesOf 2 hold ++ bytesOf 2 wait

def upgradeParams (r : Byte) (hold wait : Ticks) : List Byte :=
  [r] ++ bytesOf 2 hold ++ bytesOf 2 wait

def renewParams (r : Byte) (hold : Ticks) : List Byte := [r] ++ bytesOf 2 hold

def attributeParams (r : Byte) (a : Attributes) : List Byte :=
  [r, a.modes.code, a.mask.setWidth 8] ++ bytesOf 2 a.maxHold ++ bytesOf 2 a.defaultHold
    ++ bytesOf 2 a.guard ++ bytesOf 2 a.grace

def policyParams (c : Byte) (p : Policy) : List Byte :=
  [c, flagByte p.enabled] ++ bytesOf 2 p.maxTtl ++ [flagByte p.unwatched]

end Sys2Proof.Machine
end

