-- ==== Sys2Proof/Machine/Ops.lean ====
section
/-! DEFINITION. Reading and writing each piece of the state by its name; every other operation goes
through these. -/

namespace Sys2Proof.Machine

/-! Records and holder slots -/

def State.record (s : State) (r : Res) : Record := Vec.get s.records r

def State.setRecord (s : State) (r : Res) (x : Record) : State :=
  { s with records := Vec.set s.records r x }

/-- The lease in client `c`'s holder slot. -/
def Record.lease (x : Record) (c : Client) : Option Lease := Vec.get x.slots c

def Record.setLease (x : Record) (c : Client) (l : Option Lease) : Record :=
  { x with slots := Vec.set x.slots c l }

/-- All clients, in ascending order. -/
def allClients : List Client := List.finRange 4

/-- All resources, in ascending order. -/
def allResources : List Res := List.finRange 64

/-- The clients whose slot is filled, in ascending order. -/
def Record.holders (x : Record) : List Client :=
  allClients.filter fun c => (x.lease c).isSome

/-- Client `c` is in the client mask. -/
def Record.permits (x : Record) (c : Client) : Bool := x.attrs.mask.getLsbD c.val

/-- Client `c` holds resource `r`. -/
def State.holds (s : State) (r : Res) (c : Client) : Bool := ((s.record r).lease c).isSome

def State.setNextToken (s : State) (t : Token) : State := { s with nextToken := t }

/-- The token counter is exhausted (R21). -/
def State.exhausted (s : State) : Bool := s.nextToken == 0

/-! Wait pool -/

def State.entry (s : State) (i : PoolIx) : Option WaitEntry := Vec.get s.entries i

def State.setEntry (s : State) (i : PoolIx) (e : Option WaitEntry) : State :=
  { s with entries := Vec.set s.entries i e }

def State.queue (s : State) (r : Res) : List PoolIx := Vec.get s.queues r

def State.setQueue (s : State) (r : Res) (q : List PoolIx) : State :=
  { s with queues := Vec.set s.queues r q }

/-- Entry `i` is in use, by client `c`. -/
def State.entryOf (s : State) (c : Client) (i : PoolIx) : Bool :=
  match s.entry i with
  | some e => e.client == c
  | none => false

/-- Entry `i` is in use, of kind UPGRADE. -/
def State.isUpgrade (s : State) (i : PoolIx) : Bool :=
  match s.entry i with
  | some e => e.kind == .upgrade
  | none => false

/-- Client `c`'s wait entry on resource `r`, of any kind. -/
def State.waitOf (s : State) (r : Res) (c : Client) : Option PoolIx :=
  (s.queue r).find? (s.entryOf c)

/-- Client `c` has a wait entry on resource `r`. -/
def State.waits (s : State) (r : Res) (c : Client) : Bool := (s.waitOf r c).isSome

/-- Client `c`'s UPGRADE entry on resource `r`. -/
def State.upgradeOf (s : State) (r : Res) (c : Client) : Option PoolIx :=
  (s.queue r).find? fun i => s.entryOf c i && s.isUpgrade i

/-- The lowest free pool index (R48). -/
def State.freeIndex (s : State) : Option PoolIx :=
  (List.finRange 32).find? fun i => (s.entry i).isNone

/-! Lease clock block -/

def State.setClock (s : State) (t : Clock) : State := { s with clock := t }

def State.setTimebase (s : State) (t : Timebase) : State := { s with timebase := t }

def State.setRefCount (s : State) (n : Nat) : State := { s with refCount := n }

def State.setDeadlines (s : State) (l : List Deadline) : State := { s with deadlines := l }

/-! Sessions and notice queues -/

def State.session (s : State) (c : Client) : Session := Vec.get s.sessions c

def State.setSession (s : State) (c : Client) (x : Session) : State :=
  { s with sessions := Vec.set s.sessions c x }

/-- Client `c` is ATTACHED. -/
def State.attached (s : State) (c : Client) : Bool := (s.session c).port == .attached

/-- Resource `r` is in the involvement set. -/
def Session.involves (x : Session) (r : Res) : Bool := Vec.get x.involved r

def Session.setInvolves (x : Session) (r : Res) (b : Bool) : Session :=
  { x with involved := Vec.set x.involved r b }

/-- The tally: the number of resources in the involvement set (R104). -/
def Session.tally (x : Session) : Nat := allResources.countP x.involves

def State.noticeQueue (s : State) (c : Client) : NoticeQueue := Vec.get s.notices c

def State.setNoticeQueue (s : State) (c : Client) (x : NoticeQueue) : State :=
  { s with notices := Vec.set s.notices c x }

/-- The notice is about resource `r`. -/
def Notice.about (r : Res) : Notice → Bool
  | .resource r' _ _ => r' == r
  | .sessionLapsed _ => false
  | .sessionEvicted _ => false

/-- Client `c` has an unread notice about resource `r`. -/
def State.unread (s : State) (r : Res) (c : Client) : Bool :=
  (s.noticeQueue c).queue.any (Notice.about r)

/-! Gates and ports -/

def State.gate (s : State) (g : Gate) : Option Binding := Vec.get s.gates g

def State.setGate (s : State) (g : Gate) (b : Option Binding) : State :=
  { s with gates := Vec.set s.gates g b }

def State.cpi (s : State) (p : Client) : Cpi := Vec.get s.cpis p

def State.setCpi (s : State) (p : Client) (x : Cpi) : State :=
  { s with cpis := Vec.set s.cpis p x }

def State.setSupervisor (s : State) (x : Supervisor) : State := { s with supervisor := x }

def State.setPending (s : State) (l : List Instr) : State := { s with pending := l }

def State.setBus (s : State) (l : List BusEvent) : State := { s with bus := l }

/-! The tally (R118) -/

/-- One of the three conditions that put resource `r` in client `c`'s involvement set. -/
def State.concerns (s : State) (r : Res) (c : Client) : Bool :=
  s.holds r c || s.waits r c || s.unread r c

/-- A reported change of the pair (client, resource): the session unit looks at that pair alone
(R118). -/
def State.report (s : State) (r : Res) (c : Client) : State :=
  s.setSession c ((s.session c).setInvolves r (s.concerns r c))

end Sys2Proof.Machine
end

