-- ==== Sys2Proof/Machine/Flags.lean ====
section
/-! DEFINITION. The supervisor event set, and the levels of the attention lines, SATTN and the gate
lines and the bytes on the data lines, which follow from the state (R134, R137, R146, R150, R165,
R170, R176). -/

namespace Sys2Proof.Machine

/-! Event sources (TABLE 10-1) -/

inductive EventSource where
  | lapse (c : Client)
  | linkError (c : Client)
  | poolFull
  | forcedRevoke
  | tokensOut
  deriving DecidableEq, Repr

/-- The source's bit (TABLE 11-2). -/
def EventSource.bit : EventSource → Nat
  | .lapse c => c.val
  | .linkError c => 4 + c.val
  | .poolFull => 8
  | .forcedRevoke => 9
  | .tokensOut => 10

/-- The set that holds the one source. -/
def EventSource.only (e : EventSource) : BitVec 11 := BitVec.twoPow 11 e.bit

/-- A source joins the event set; one already there leaves it unchanged (R167). -/
def State.raise (s : State) (e : EventSource) : State :=
  s.setSupervisor { s.supervisor with events := s.supervisor.events ||| e.only }

/-- The source is in the event set. -/
def State.raised (s : State) (e : EventSource) : Bool := s.supervisor.events.getLsbD e.bit

/-! Attention lines: true is asserted, driven low -/

/-- The notice asserts its client's line under the mask (R134). -/
def Notice.asserts (mask : BitVec 6) : Notice → Bool
  | .resource _ w _ => mask.getLsbD (w.kind - 1)
  | .sessionLapsed _ => true
  | .sessionEvicted _ => true

def NoticeQueue.attention (q : NoticeQueue) : Bool := q.queue.any (Notice.asserts q.mask)

/-- ATTNn is asserted (R134). -/
def State.attention (s : State) (c : Client) : Bool := (s.noticeQueue c).attention

/-- SATTN is asserted (R170). -/
def State.supervisorAttention (s : State) : Bool :=
  s.supervisor.events &&& s.supervisor.mask != 0

/-! Gate lines: true is high -/

/-- The binding's client holds the bound resource in HELD or REVOKING, in a covered mode
(R137). -/
def State.covered (s : State) (b : Binding) : Bool :=
  let x := s.record b.resource
  (x.state == .held || x.state == .revoking) && (x.lease b.client).isSome
    && (b.cover == .anyMode || x.heldMode == some .exclusive)

/-- The pin level that stands for active, or for inactive (R137). -/
def Polarity.level (p : Polarity) (active : Bool) : Bool :=
  match p with
  | .highActive => active
  | .lowActive => !active

/-- The level of GATEn; an unbound gate is low (R137). -/
def State.gateLevel (s : State) (g : Gate) : Bool :=
  match s.gate g with
  | some b => b.polarity.level (s.covered b)
  | none => false

/-- GATEn is at its active level; an unbound gate never is (R137). -/
def State.gateActive (s : State) (g : Gate) : Bool :=
  match s.gate g with
  | some b => s.covered b
  | none => false

/-! Data lines: none is high impedance, or released -/

/-- The bytes a client port sends in RESPONDING: the marker, then the response frame (R150). -/
def Response.onSo (r : Response) : List Byte := marker :: r.bytes

/-- The byte SOn carries while the next byte is clocked (R145, R146, R150). -/
def State.so (s : State) (p : Client) : Option Byte :=
  match (s.cpi p).framing with
  | .idle => none
  | .receiving _ => some 0x00
  | .responding r sent => some (r.onSo.getD sent 0xFF)
  | .done => some 0xFF

/-- The byte the supervisor port sends on SDA next: the stored response in its order, 0xFF past its
CRC byte; outside a read, and after a byte that was not acknowledged, SDA is released (R165). -/
def State.sda (s : State) : Option Byte :=
  match s.supervisor.framing with
  | .sending sent true => some (s.supervisor.stored.bytes.getD sent 0xFF)
  | .sending _ false => none
  | .idle => none
  | .receiving _ => none
  | .discarding => none

/-! All outputs at once -/

/-- The pins the block drives (TABLE 11-6). The acknowledge bits on SDA are State.acknowledges and
State.acknowledgesData. -/
structure Pins where
  attn : Vector Bool 4
  sattn : Bool
  gates : Vector Bool 16
  so : Vector (Option Byte) 4
  sda : Option Byte
  deriving DecidableEq, Repr

/-- The pins of a state. -/
def State.pins (s : State) : Pins :=
  { attn := Vector.ofFn s.attention, sattn := s.supervisorAttention
    gates := Vector.ofFn s.gateLevel, so := Vector.ofFn s.so, sda := s.sda }

/-- The pins while RESET is low (R176): the attention lines released, every gate low, every SO at
high impedance, SDA released. -/
def Pins.duringReset : Pins :=
  { attn := Vector.replicate 4 false, sattn := false, gates := Vector.replicate 16 false
    so := Vector.replicate 4 none, sda := none }

end Sys2Proof.Machine
end

