-- ==== Sys2Proof/Machine/Deadlines.lean ====
section
/-! DEFINITION. Arming, disarming and reading the deadline list (R72 to R76, R15). -/

namespace Sys2Proof.Machine

/-- The list without the entry of `id` (R74). -/
def withoutDeadline (id : DeadlineId) (l : List Deadline) : List Deadline :=
  l.filter fun d => d.id != id

/-- Ticks remaining to an entry, modulo 2^32 (R15). -/
def Deadline.remaining (d : Deadline) (now : Clock) : Clock := d.due - now

/-- The new entry's place: behind every entry whose ticks remaining are equal or smaller, in front
of the first that is larger (R75). -/
def insertDeadline (now : Clock) (d : Deadline) : List Deadline → List Deadline
  | [] => [d]
  | e :: rest =>
    if (e.remaining now).toNat ≤ (d.remaining now).toNat then e :: insertDeadline now d rest
    else d :: e :: rest

/-- Disarming: no effect when the list holds no such entry (R74). -/
def State.disarm (s : State) (id : DeadlineId) : State :=
  s.setDeadlines (withoutDeadline id s.deadlines)

/-- Arming or re-arming for `n` ticks; an interval of 0 disarms instead (R73). -/
def State.arm (s : State) (id : DeadlineId) (n : Ticks) : State :=
  if n = 0 then s.disarm id
  else
    s.setDeadlines (insertDeadline s.clock { id, due := s.clock + n.setWidth 32 }
      (withoutDeadline id s.deadlines))

/-- The armed entry of `id`. -/
def State.deadlineOf (s : State) (id : DeadlineId) : Option Deadline :=
  s.deadlines.find? fun d => d.id == id

/-- The entry of `id` is armed. -/
def State.armed (s : State) (id : DeadlineId) : Bool := (s.deadlineOf id).isSome

/-- Ticks remaining to the deadline of `id` in two bytes, 0 when none is armed (R15). -/
def State.remaining (s : State) (id : DeadlineId) : Ticks :=
  match s.deadlineOf id with
  | some d => (d.remaining s.clock).setWidth 16
  | none => 0

end Sys2Proof.Machine
end

