-- ==== Sys2Proof/Machine/Notices.lean ====
section
/-! DEFINITION. Queueing, coalescing and discarding notices (R125 to R128). -/

namespace Sys2Proof.Machine

/-- Adding one to a count that saturates at 255 (R126, R157). -/
def saturatingSucc (n : Byte) : Byte := if n = 255 then n else n + 1

/-- A resource notice joins a queue: it replaces the notice about the same resource in place and
raises its superseded count, or is appended with superseded 0 (R125, R126). -/
def enqueueNotice (r : Res) (w : ResourceWord) : List Notice → List Notice
  | [] => [.resource r w 0]
  | n :: rest =>
    match n with
    | .resource r' _ k =>
      if r' = r then .resource r w (saturatingSucc k) :: rest
      else n :: enqueueNotice r w rest
    | .sessionLapsed _ => n :: enqueueNotice r w rest
    | .sessionEvicted _ => n :: enqueueNotice r w rest

/-- A resource notice is queued to client `c`. -/
def State.notify (s : State) (c : Client) (r : Res) (w : ResourceWord) : State :=
  let q := s.noticeQueue c
  s.setNoticeQueue c { q with queue := enqueueNotice r w q.queue }

/-- A session notice is the only entry of the queue (R128). -/
def State.placeSessionNotice (s : State) (c : Client) (n : Notice) : State :=
  s.setNoticeQueue c { s.noticeQueue c with queue := [n] }

/-- A notice leaves the queue for good: a resource notice is reported (R127, R130). -/
def State.reportRemoved (s : State) (c : Client) (n : Notice) : State :=
  match n with
  | .resource r _ _ => s.report r c
  | .sessionLapsed _ => s
  | .sessionEvicted _ => s

/-- Every notice of the queue is discarded and each resource notice reported (R127). -/
def State.discardNotices (s : State) (c : Client) : State :=
  let q := s.noticeQueue c
  q.queue.foldl (fun t n => t.reportRemoved c n) (s.setNoticeQueue c { q with queue := [] })

end Sys2Proof.Machine
end

