-- ==== Sys2Proof/Machine/Leases.lean ====
section
/-! DEFINITION. What the lease table and the wait pool do whatever the cause: grants and the grant
rule (R20 to R28), entry allocation and removal (R48 to R51), the release path (R33, R34) and the
mass release (R111). -/

namespace Sys2Proof.Machine

/-! Entries of the wait pool -/

/-- Removal of a wait entry: out of its queue, its WAIT deadline disarmed, its index free, the pair
reported (R50). A notice of the same event is queued first, so that it counts in the report. -/
def State.removeEntry (s : State) (i : PoolIx) : State :=
  match s.entry i with
  | some e =>
    (((s.setQueue e.resource ((s.queue e.resource).erase i)).setEntry i none).disarm
      (.wait i)).report e.resource e.client
  | none => s

/-- The wait value of a claim or an upgrade that asks to wait without limit. -/
def waitForever : Ticks := 65535

/-- The WAIT deadline of a new entry: none for a wait without limit (R31, R55). -/
def State.armWait (s : State) (i : PoolIx) (wait : Ticks) : State :=
  if wait = waitForever then s else s.arm (.wait i) wait

/-- A new entry at index `i`, its resource's queue becoming `q` (R31, R51, R55). -/
def State.allocate (s : State) (i : PoolIx) (e : WaitEntry) (q : List PoolIx) (wait : Ticks) :
    State :=
  (((s.setEntry i (some e)).setQueue e.resource q).armWait i wait).report e.resource e.client

/-! Grants -/

/-- The effective hold (R22). -/
def effectiveHold (a : Attributes) (requested : Ticks) : Ticks :=
  let start := if requested ≠ 0 then requested else a.defaultHold
  if a.maxHold ≠ 0 ∧ (start = 0 ∨ a.maxHold < start) then a.maxHold else start

/-- The counter advances; the grant that takes the last token raises TOKENS_OUT (R20, R21). -/
def State.takeToken (s : State) : State :=
  let t := s.setNextToken (s.nextToken + 1)
  if s.nextToken = BitVec.allOnes 48 then t.raise .tokensOut else t

/-- The lease of a grant made now: the next token, granted-at the lease clock (R26, R30). -/
def State.newLease (s : State) : Lease := { token := s.nextToken, grantedAt := s.clock }

/-- A slot is filled, or converted, by a grant in mode `m`: the lease, the held mode, HELD, the
token taken, the HOLD deadline from the effective hold (armed, re-armed, or disarmed when it is 0),
and the pair reported (R23, R26, R28, R30, R54). -/
def State.grant (s : State) (r : Res) (c : Client) (m : Mode) (hold : Ticks) : State :=
  let x := s.record r
  let filled := s.setRecord r
    { x.setLease c (some s.newLease) with state := .held, heldMode := some m }
  (filled.takeToken.arm (.hold r c) (effectiveHold x.attrs hold)).report r c

/-- The mode in which an entry of the kind is granted. -/
def WaitKind.mode : WaitKind → Mode
  | .shared => .shared
  | .exclusive => .exclusive
  | .upgrade => .exclusive

/-- A grant of entry `i`, which holds `e`, from the queue of `r`: the entry is removed, the lease
granted, GRANTED queued with its token (R26, R28). -/
def State.grantEntry (s : State) (r : Res) (i : PoolIx) (e : WaitEntry) : State :=
  ((s.removeEntry i).grant r e.client e.kind.mode e.hold).notify e.client r
    (.granted s.nextToken)

/-- The head is compatible with the current holders (R25). -/
def Record.compatible (x : Record) (e : WaitEntry) : Bool :=
  match e.kind with
  | .exclusive => x.holders.isEmpty
  | .shared => x.holders.isEmpty || x.heldMode == some .shared
  | .upgrade => x.holders == [e.client]

/-- The grants of one run of the grant rule, head by head (R25 to R27): `q` is the queue still to
be examined. -/
def State.grantHeads (s : State) (r : Res) : List PoolIx → State
  | [] => s
  | i :: rest =>
    match s.entry i with
    | some e =>
      if !s.exhausted && (s.record r).compatible e then (s.grantEntry r i e).grantHeads r rest
      else s
    | none => s

/-- The record is in a state in which the grant rule may grant (R24). -/
def RecordState.grants : RecordState → Bool
  | .idle => true
  | .held => true
  | .offline => false
  | .revoking => false
  | .draining => false

/-- The grant rule (R24). -/
def State.grantRule (s : State) (r : Res) : State :=
  if (s.record r).state.grants then s.grantHeads r (s.queue r) else s

/-! The release path -/

/-- The record goes to OFFLINE and is cleared (R4). -/
def State.goOffline (s : State) (r : Res) : State := s.setRecord r Record.cleared

/-- What follows when no holder remains: DRAINING, OFFLINE or IDLE (R34). -/
def State.lastHolderLeft (s : State) (r : Res) : State :=
  let x := s.record r
  let t := if x.state = .revoking then s.disarm (.grace r) else s
  if x.attrs.guard ≠ 0 then
    (t.setRecord r { x with state := .draining, heldMode := none, deadline := .guard }).arm
      (.guard r) x.attrs.guard
  else if x.retirePending then t.goOffline r
  else
    (t.setRecord r { x with state := .idle, heldMode := none, deadline := .absent }).grantRule r

/-- The release path of client `c`'s lease (R33). With holders remaining in a HELD record the grant
rule runs, except where `quiet` says that a REVOKE with grace 0 is removing them (R88). -/
def State.endLease (s : State) (r : Res) (c : Client) (quiet : Bool) : State :=
  let t := ((s.setRecord r ((s.record r).setLease c none)).disarm (.hold r c)).report r c
  if (t.record r).holders.isEmpty then t.lastHolderLeft r
  else if (t.record r).state = .held ∧ quiet = false then t.grantRule r
  else t

/-- Client `c`'s UPGRADE entry on the resource goes before its lease (R35, R42). -/
def State.removeUpgrade (s : State) (r : Res) (c : Client) : State :=
  match s.upgradeOf r c with
  | some i => s.removeEntry i
  | none => s

/-! Forced removal (R88, R91) -/

/-- One holder is removed with LEASE_REVOKED. -/
def State.removeHolder (r : Res) (s : State) (c : Client) : State :=
  match (s.record r).lease c with
  | some l => (s.notify c r (.leaseRevoked l.token)).endLease r c true
  | none => s

/-- Every holder the record has now is removed, in ascending client order. -/
def State.removeHolders (s : State) (r : Res) : State :=
  (s.record r).holders.foldl (State.removeHolder r) s

/-! The mass release (R111) -/

/-- The ending client's wait entry on the resource is removed and the grant rule runs. -/
def State.dropWait (s : State) (c : Client) (r : Res) : State :=
  match s.waitOf r c with
  | some i => (s.removeEntry i).grantRule r
  | none => s

/-- The ending client's lease on the resource ends. -/
def State.dropLease (s : State) (c : Client) (r : Res) : State :=
  if s.holds r c then s.endLease r c false else s

/-- One resource of the mass release: the wait entry first, then the lease. -/
def State.releaseResource (c : Client) (s : State) (r : Res) : State :=
  (s.dropWait c r).dropLease c r

/-- The mass release: every resource in ascending order, then the client's notices are
discarded. -/
def State.massRelease (s : State) (c : Client) : State :=
  (allResources.foldl (State.releaseResource c) s).discardNotices c

/-- The number of leases client `c` holds. -/
def State.leaseCount (s : State) (c : Client) : Nat := allResources.countP fun r => s.holds r c

end Sys2Proof.Machine
end

