-- ==== Sys2Proof/Machine/Link.lean ====
section
/-! DEFINITION. The two ports: transactions, frame checks and refusals, the replay guard, admission
and the implicit keepalive, stored responses (Chapters 9 and 10, R106, R107), and the checks that
many requests share. -/

namespace Sys2Proof.Machine

/-! Decisions of an owning block -/

/-- The status and payload an owning block returns, and the state it leaves. -/
structure Decision where
  state : State
  status : Status
  payload : List Byte

/-- A status without payload (R173), with the state as it stands. -/
def State.answer (s : State) (st : Status) : Decision := { state := s, status := st, payload := [] }

/-- A status with a payload, with the state as it stands. -/
def State.reply (s : State) (st : Status) (payload : List Byte) : Decision :=
  { state := s, status := st, payload }

/-- The status of the first check that fails. -/
def firstFailing : List (Bool × Status) → Option Status
  | [] => none
  | (ok, st) :: rest => if ok then firstFailing rest else some st

/-- The checks in their order, then the request itself. -/
def State.checked (s : State) (checks : List (Bool × Status)) (taken : Decision) : Decision :=
  match firstFailing checks with
  | some st => s.answer st
  | none => taken

/-- The first two checks of every client request that names a resource: ATTACHED, and the number
below 64 (R29, R35, R36, R37, R39, R53, R58). -/
def State.withResource (s : State) (c : Client) (r : Byte) (next : Res → Decision) : Decision :=
  if s.attached c then
    match numberBelow 64 r with
    | some i => next i
    | none => s.answer .noResource
  else s.answer .noSession

/-! Client port -/

/-- A client request as TABLE 9-1 lists it: its code, its parameter length, the range check of the
port (R148), whether a disabled port admits it (R106), and its owner's rule. -/
structure ClientRequest where
  code : Byte
  length : Nat
  inRange : List Byte → Bool
  whenDisabled : Bool
  rule : Client → List Byte → State → Decision

/-- A link error: the count saturates and LINKERRn is raised (R157). -/
def State.linkError (s : State) (p : Client) : State :=
  let x := s.cpi p
  (s.setCpi p { x with linkErrors := saturatingSucc x.linkErrors }).raise (.linkError p)

/-- The CPI goes to the framing state. -/
def State.setFraming (s : State) (p : Client) (f : CpiFraming) : State :=
  s.setCpi p { s.cpi p with framing := f }

/-- CS rises: a request cut with at least one byte arrived counts a link error; a request already
taken stands (R151, R152). -/
def State.csRise (s : State) (p : Client) : State :=
  match (s.cpi p).framing with
  | .receiving (_ :: _) => (s.linkError p).setFraming p .idle
  | .receiving [] => s.setFraming p .idle
  | .idle => s
  | .responding _ _ => s.setFraming p .idle
  | .done => s.setFraming p .idle

/-- CS falls: a transaction begins with an empty receive buffer (R145). With CS low already it
cannot fall (entry 13). -/
def State.csFall (s : State) (p : Client) : State :=
  match (s.cpi p).framing with
  | .idle => s.setFraming p (.receiving [])
  | .receiving _ => s
  | .responding _ _ => s
  | .done => s

/-- CS falls for a new transaction, having risen first if it was low (R145, R150, entry 2). -/
def State.beginTransaction (s : State) (p : Client) : State :=
  (s.csRise p).setFraming p (.receiving [])

/-- The port passes to RESPONDING with the response, none of it sent (R147, R148). -/
def State.respond (s : State) (p : Client) (r : Response) : State :=
  s.setFraming p (.responding r 0)

/-- RESPONDING after `sent` bytes, or DONE once the CRC byte has gone out (R145, R150). -/
def CpiFraming.afterSending (r : Response) (sent : Nat) : CpiFraming :=
  if sent < r.onSo.length then .responding r sent else .done

/-- A frame-level refusal (R147, R149). -/
def State.refuseFrame (s : State) (p : Client) (st : Status) (tag : Byte) : State :=
  (s.linkError p).respond p { status := st, tag, replay := false, payload := [] }

/-- The port takes requests other than STATUS and FETCH. -/
def State.enabled (s : State) (p : Client) : Bool := (s.session p).policy.enabled

/-- The implicit keepalive of an admitted request (R107). -/
def State.keepSession (s : State) (p : Client) : State :=
  if s.attached p ∧ (s.session p).ttl ≠ 0 then s.arm (.session p) (s.session p).ttl else s

/-- The executed request and its response are stored, and the response goes out (R150, R155). -/
def State.storeExchange (s : State) (p : Client) (f : Frame) (r : Response) : State :=
  s.setCpi p
    { s.cpi p with
      framing := .responding r 0, lastTag := f.tag, lastRequest := f.bytes, lastResponse := some r }

/-- The response of a decision. -/
def Decision.response (d : Decision) (tag : Byte) : Response :=
  { status := d.status, tag, replay := false, payload := d.payload }

/-- Admission (R106) and the owner's decision. -/
def State.decideRequest (s : State) (p : Client) (q : ClientRequest) (params : List Byte) :
    Decision :=
  if s.enabled p || q.whenDisabled then q.rule p params (s.keepSession p)
  else s.answer .portDisabled

/-- A request is executed (R155). -/
def State.execute (s : State) (p : Client) (q : ClientRequest) (f : Frame) : State :=
  let d := s.decideRequest p q f.params
  d.state.storeExchange p f (d.response f.tag)

/-- The replay guard (R154). -/
def State.replayGuard (s : State) (p : Client) (q : ClientRequest) (f : Frame) : State :=
  let x := s.cpi p
  if f.tag ≠ 0 ∧ f.tag = x.lastTag then
    match x.lastResponse with
    | some r =>
      if x.lastRequest = f.bytes then s.respond p { r with replay := true }
      else s.respond p ((s.answer .tagReused).response f.tag)
    | none => s.respond p ((s.answer .tagReused).response f.tag)
  else s.execute p q f

/-- A request is taken at its CRC byte: the frame checks in order (R148), then the replay guard.
`q` is the request the code names, none for a code that names no client request. -/
def State.takeFrame (s : State) (p : Client) (q : Option ClientRequest) (f : Frame) : State :=
  if f.intact then
    match q with
    | some q =>
      if f.params.length = q.length ∧ q.inRange f.params then s.replayGuard p q f
      else s.refuseFrame p .badParams f.tag
    | none => s.refuseFrame p .unknownRequest f.tag
  else s.refuseFrame p .badFrame f.tag

/-- One transaction that carries a frame of the request's code up to its CRC byte. A length byte
of 17 or more is refused at its arrival (R147). -/
def State.clientRequest (s : State) (p : Client) (q : ClientRequest) (tag : Byte)
    (params : List Byte) (crc : Byte) : State :=
  if maxParams < params.length then (s.beginTransaction p).refuseFrame p .badLength tag
  else (s.beginTransaction p).takeFrame p (some q) { code := q.code, tag, params, crc }

/-! Supervisor port -/

/-- A supervisor request as TABLE 10-2 lists it: its code, its parameter length and its owner's
rule. -/
structure SupervisorRequest where
  code : Byte
  length : Nat
  rule : List Byte → State → Decision

/-- The stored response is replaced (R166). -/
def State.storeResponse (s : State) (r : Response) : State :=
  s.setSupervisor { s.supervisor with stored := r }

def State.setSupervisorFraming (s : State) (f : SupervisorFraming) : State :=
  s.setSupervisor { s.supervisor with framing := f }

/-- A status without payload is stored. -/
def State.storeStatus (s : State) (st : Status) (tag : Byte) : State :=
  s.storeResponse { status := st, tag, replay := false, payload := [] }

/-- A write transaction in progress ends: cut in RECEIVING it leaves INCOMPLETE (R164). -/
def State.endWrite (s : State) : State :=
  match s.supervisor.framing with
  | .receiving buffer => s.storeStatus .incomplete (arrivedTag buffer)
  | .idle => s
  | .discarding => s
  | .sending _ _ => s

/-- The port acknowledges an address byte that carries its own address, with either direction bit
(R161). -/
def State.acknowledges (s : State) (a : BitVec 7) : Bool := a == s.supervisor.address

/-- The port acknowledges the data byte that arrives now: in RECEIVING every one up to and including
the CRC byte, but a length byte of 17 or more; in DISCARDING none (R162, R163). -/
def State.acknowledgesData (s : State) (b : Byte) : Bool :=
  match s.supervisor.framing with
  | .receiving before => !(before.length == 2 && decide (maxParams < b.toNat))
  | .idle => false
  | .discarding => false
  | .sending _ _ => false

/-- A START or repeated START with an address byte: it ends a write in progress (R164), and moves
the port to SENDING at the first byte or to RECEIVING under its own address, to IDLE under another
(R161). -/
def State.start (s : State) (a : BitVec 7) (read : Bool) : State :=
  s.endWrite.setSupervisorFraming
    (if s.acknowledges a then (if read then .sending 0 true else .receiving []) else .idle)

/-- A STOP (R161, R164). -/
def State.stop (s : State) : State := s.endWrite.setSupervisorFraming .idle

/-- A byte of a read goes out; without the controller's acknowledge the port stops driving SDA until
the read ends (R165). -/
def State.sendByte (s : State) (ack : Bool) : State :=
  match s.supervisor.framing with
  | .sending sent true => s.setSupervisorFraming (.sending (sent + 1) ack)
  | .sending _ false => s
  | .idle => s
  | .receiving _ => s
  | .discarding => s

/-- A START or repeated START with the port's own address and the write bit (R161, entry 2). -/
def State.beginWrite (s : State) : State := s.endWrite.setSupervisorFraming (.receiving [])

/-- A decided request: its response is stored and the port discards what follows (R163). -/
def State.storeDecision (d : Decision) (tag : Byte) : State :=
  (d.state.storeResponse (d.response tag)).setSupervisorFraming .discarding

/-- A supervisor request is taken at its CRC byte (R163). -/
def State.takeSupervisorFrame (s : State) (q : Option SupervisorRequest) (f : Frame) : State :=
  if f.intact then
    match q with
    | some q =>
      if f.params.length = q.length then State.storeDecision (q.rule f.params s) f.tag
      else State.storeDecision (s.answer .badParams) f.tag
    | none => State.storeDecision (s.answer .unknownRequest) f.tag
  else State.storeDecision (s.answer .badFrame) f.tag

/-- One write transaction that carries a frame of the request's code up to its CRC byte; a length
byte of 17 or more is refused at its arrival (R162). -/
def State.supervisorRequest (s : State) (q : SupervisorRequest) (tag : Byte)
    (params : List Byte) (crc : Byte) : State :=
  if maxParams < params.length then State.storeDecision (s.beginWrite.answer .badLength) tag
  else s.beginWrite.takeSupervisorFrame (some q) { code := q.code, tag, params, crc }

/-- The resource number check of a supervisor request. -/
def State.withNumber (s : State) (r : Byte) (next : Res → Decision) : Decision :=
  match numberBelow 64 r with
  | some i => next i
  | none => s.answer .noResource

/-- The client number check of a supervisor request (R115, R116, R120). -/
def State.withClient (s : State) (c : Byte) (next : Client → Decision) : Decision :=
  match numberBelow 4 c with
  | some i => next i
  | none => s.answer .noClient

end Sys2Proof.Machine
end

