-- ==== Sys2Proof/Machine/LeaseRequests.lean ====
section
/-! DEFINITION. CLAIM, RENEW, RELEASE, DOWNGRADE and QUERY (Chapter 2), UPGRADE and WITHDRAW
(Chapter 3). -/

namespace Sys2Proof.Machine

/-- The modes permitted allow the mode. -/
def ModesPermitted.allows : ModesPermitted → Mode → Bool
  | .none, _ => false
  | .exclusiveOnly, .exclusive => true
  | .exclusiveOnly, .shared => false
  | .sharedOnly, .shared => true
  | .sharedOnly, .exclusive => false
  | .either, _ => true

/-- The kind of the entry a claim of the mode queues (R31). -/
def Mode.waitKind : Mode → WaitKind
  | .shared => .shared
  | .exclusive => .exclusive

/-- Any parameter value passes the port (R148). -/
def anyParams (_ : List Byte) : Bool := true

/-- A grant at once, answered with the token and the effective hold (R30, R54). -/
def State.grantNow (s : State) (r : Res) (c : Client) (m : Mode) (hold : Ticks) : Decision :=
  { state := s.grant r c m hold, status := .granted
    payload := bytesOf 6 s.nextToken ++ bytesOf 2 (effectiveHold (s.record r).attrs hold) }

/-- A request that must wait: BUSY for one attempt, POOL_FULL without a free index, or QUEUED with
the entry in the queue `place` makes, after which the grant rule runs (R31, R53, R55, R65). -/
def State.waitFor (s : State) (e : WaitEntry) (wait : Ticks) (place : PoolIx → List PoolIx)
    (position : Nat) : Decision :=
  if wait = 0 then s.answer .busy
  else
    match s.freeIndex with
    | none => (s.raise .poolFull).answer .poolFull
    | some i =>
      ((s.allocate i e (place i) wait).grantRule e.resource).reply .queued [countByte position]

/-! CLAIM -/

/-- Steps 3 to 10 of TABLE 2-3. -/
def State.claimChecks (s : State) (c : Client) (r : Res) (m : Mode) : List (Bool × Status) :=
  let x := s.record r
  [ (x.state != .offline, .offline),
    (!x.retirePending, .retiring),
    (x.permits c, .notPermitted),
    (x.attrs.modes.allows m, .modeRefused),
    (!s.holds r c, .alreadyHeld),
    (!s.waits r c, .alreadyWaiting),
    ((s.session c).involves r || decide ((s.session c).tally < 15), .quota),
    (!s.exhausted, .exhausted) ]

/-- The claim is grantable now (R30, R32). -/
def State.grantableNow (s : State) (r : Res) (m : Mode) : Bool :=
  let x := s.record r
  x.state == .idle
    || (x.state == .held && x.heldMode == some .shared && m == .shared && (s.queue r).isEmpty)

/-- CLAIM (R29 to R32). -/
def State.decideClaim (s : State) (c : Client) (r : Byte) (m : Mode) (hold wait : Ticks) :
    Decision :=
  s.withResource c r fun r =>
    s.checked (s.claimChecks c r m)
      (if s.grantableNow r m then s.grantNow r c m hold
       else
        s.waitFor { resource := r, client := c, kind := m.waitKind, hold } wait
          (fun i => s.queue r ++ [i]) ((s.queue r).length + 1))

/-- The mode of CLAIM is the field the port checks (R148). -/
def claimInRange : List Byte → Bool
  | [_, m, _, _, _, _] => (modeOf m).isSome
  | _ => false

def claimRule (c : Client) (params : List Byte) (s : State) : Decision :=
  match params with
  | [r, m, h1, h0, w1, w0] =>
    match modeOf m with
    | some m => s.decideClaim c r m (half h1 h0) (half w1 w0)
    | none => s.answer .badParams
  | _ => s.answer .badParams

def claimRequest : ClientRequest :=
  { code := codeClaim, length := 6, inRange := claimInRange, whenDisabled := false
    rule := claimRule }

def execClaim (p : Client) (tag : Byte) (params : List Byte) (crc : Byte) (s : State) :
    Host.Outcome State Fault Refusal :=
  .next (s.clientRequest p claimRequest tag params crc)

/-! RENEW -/

/-- RENEW (R36). -/
def State.decideRenew (s : State) (c : Client) (r : Byte) (hold : Ticks) : Decision :=
  s.withResource c r fun r =>
    let x := s.record r
    let e := effectiveHold x.attrs hold
    s.checked [(s.holds r c, .notHeld), (x.state != .revoking, .revoking)]
      ((s.arm (.hold r c) e).reply .ok (bytesOf 2 e))

def renewRule (c : Client) (params : List Byte) (s : State) : Decision :=
  match params with
  | [r, h1, h0] => s.decideRenew c r (half h1 h0)
  | _ => s.answer .badParams

def renewRequest : ClientRequest :=
  { code := codeRenew, length := 3, inRange := anyParams, whenDisabled := false
    rule := renewRule }

def execRenew (p : Client) (tag : Byte) (params : List Byte) (crc : Byte) (s : State) :
    Host.Outcome State Fault Refusal :=
  .next (s.clientRequest p renewRequest tag params crc)

/-! RELEASE -/

/-- RELEASE (R35). -/
def State.decideRelease (s : State) (c : Client) (r : Byte) : Decision :=
  s.withResource c r fun r =>
    s.checked [(s.holds r c, .notHeld)]
      (((s.removeUpgrade r c).endLease r c false).reply .ok
        [flagByte (s.upgradeOf r c).isSome])

def releaseRule (c : Client) (params : List Byte) (s : State) : Decision :=
  match params with
  | [r] => s.decideRelease c r
  | _ => s.answer .badParams

def releaseRequest : ClientRequest :=
  { code := codeRelease, length := 1, inRange := anyParams, whenDisabled := false
    rule := releaseRule }

def execRelease (p : Client) (tag : Byte) (params : List Byte) (crc : Byte) (s : State) :
    Host.Outcome State Fault Refusal :=
  .next (s.clientRequest p releaseRequest tag params crc)

/-! DOWNGRADE -/

/-- The checks of R37 after the first two. -/
def State.downgradeChecks (s : State) (c : Client) (r : Res) : List (Bool × Status) :=
  let x := s.record r
  [ (s.holds r c, .notHeld),
    (x.heldMode == some .exclusive, .alreadyHeld),
    (x.attrs.modes != .exclusiveOnly, .modeRefused),
    (x.state != .revoking, .revoking) ]

/-- DOWNGRADE (R37, R38). -/
def State.decideDowngrade (s : State) (c : Client) (r : Byte) : Decision :=
  s.withResource c r fun r =>
    s.checked (s.downgradeChecks c r)
      ((((s.setRecord r { s.record r with heldMode := some .shared }).report r c).grantRule
        r).answer .ok)

def downgradeRule (c : Client) (params : List Byte) (s : State) : Decision :=
  match params with
  | [r] => s.decideDowngrade c r
  | _ => s.answer .badParams

def downgradeRequest : ClientRequest :=
  { code := codeDowngrade, length := 1, inRange := anyParams, whenDisabled := false
    rule := downgradeRule }

def execDowngrade (p : Client) (tag : Byte) (params : List Byte) (crc : Byte) (s : State) :
    Host.Outcome State Fault Refusal :=
  .next (s.clientRequest p downgradeRequest tag params crc)

/-! UPGRADE -/

/-- The queue holds an UPGRADE entry of client `c`, or (`own` false) of another client. -/
def State.upgradeWaits (s : State) (r : Res) (c : Client) (own : Bool) : Bool :=
  (s.queue r).any fun i => s.isUpgrade i && (s.entryOf c i == own)

/-- Steps 3 to 8 of TABLE 3-3. -/
def State.upgradeChecks (s : State) (c : Client) (r : Res) : List (Bool × Status) :=
  let x := s.record r
  [ (s.holds r c, .notHeld),
    (x.heldMode != some .exclusive, .alreadyHeld),
    (x.attrs.modes != .sharedOnly, .modeRefused),
    (!x.retirePending, .retiring),
    (x.state != .revoking, .revoking),
    (!s.upgradeWaits r c true, .alreadyWaiting),
    (!s.upgradeWaits r c false, .upgradeConflict),
    (!s.exhausted, .exhausted) ]

/-- UPGRADE (R53 to R55). -/
def State.decideUpgrade (s : State) (c : Client) (r : Byte) (hold wait : Ticks) : Decision :=
  s.withResource c r fun r =>
    s.checked (s.upgradeChecks c r)
      (if (s.record r).holders == [c] then s.grantNow r c .exclusive hold
       else
        s.waitFor { resource := r, client := c, kind := .upgrade, hold } wait
          (fun i => i :: s.queue r) 1)

def upgradeRule (c : Client) (params : List Byte) (s : State) : Decision :=
  match params with
  | [r, h1, h0, w1, w0] => s.decideUpgrade c r (half h1 h0) (half w1 w0)
  | _ => s.answer .badParams

def upgradeRequest : ClientRequest :=
  { code := codeUpgrade, length := 5, inRange := anyParams, whenDisabled := false
    rule := upgradeRule }

def execUpgrade (p : Client) (tag : Byte) (params : List Byte) (crc : Byte) (s : State) :
    Host.Outcome State Fault Refusal :=
  .next (s.clientRequest p upgradeRequest tag params crc)

/-! WITHDRAW -/

/-- WITHDRAW (R58, R59). -/
def State.decideWithdraw (s : State) (c : Client) (r : Byte) : Decision :=
  s.withResource c r fun r =>
    match s.waitOf r c with
    | some i => ((s.removeEntry i).grantRule r).answer .ok
    | none => s.answer .notWaiting

def withdrawRule (c : Client) (params : List Byte) (s : State) : Decision :=
  match params with
  | [r] => s.decideWithdraw c r
  | _ => s.answer .badParams

def withdrawRequest : ClientRequest :=
  { code := codeWithdraw, length := 1, inRange := anyParams, whenDisabled := false
    rule := withdrawRule }

def execWithdraw (p : Client) (tag : Byte) (params : List Byte) (crc : Byte) (s : State) :
    Host.Outcome State Fault Refusal :=
  .next (s.clientRequest p withdrawRequest tag params crc)

/-! QUERY -/

/-- The held mode a report gives: NONE outside HELD and REVOKING (R13, R40). -/
def Record.reportedMode (x : Record) : Option Mode :=
  match x.state with
  | .held => x.heldMode
  | .revoking => x.heldMode
  | .offline => none
  | .idle => none
  | .draining => none

/-- The relation code (TABLE 2-5). -/
def relationCode (lease waiting : Bool) : Byte :=
  match lease, waiting with
  | false, false => 0
  | true, false => 1
  | false, true => 2
  | true, true => 3

/-- Token, granted-at and hold remaining of the client's lease, zeros without one. -/
def State.leaseBytes (s : State) (r : Res) (c : Client) : List Byte :=
  match (s.record r).lease c with
  | some l => bytesOf 6 l.token ++ bytesOf 4 l.grantedAt ++ bytesOf 2 (s.remaining (.hold r c))
  | none => List.replicate 12 0

/-- Wait kind, 1-based position and wait remaining of the client's entry, zeros without one. -/
def State.waitBytes (s : State) (r : Res) (c : Client) : List Byte :=
  match s.waitOf r c with
  | some i =>
    match s.entry i with
    | some e =>
      [e.kind.code, countByte ((s.queue r).idxOf i + 1)] ++ bytesOf 2 (s.remaining (.wait i))
    | none => List.replicate 4 0
  | none => List.replicate 4 0

/-- The QUERY payload (R40, TABLE 11-5). -/
def State.queryBytes (s : State) (r : Res) (c : Client) : List Byte :=
  let x := s.record r
  [ x.state.code, heldModeCode x.reportedMode, countByte x.holders.length,
    countByte (s.queue r).length, flagByte x.retirePending,
    relationCode (s.holds r c) (s.waits r c) ] ++ s.leaseBytes r c ++ s.waitBytes r c

/-- QUERY (R39, R40). -/
def State.decideQuery (s : State) (c : Client) (r : Byte) : Decision :=
  s.withResource c r fun r =>
    let x := s.record r
    s.checked [(x.state != .offline, .offline), (x.permits c, .notPermitted)]
      (s.reply .ok (s.queryBytes r c))

def queryRule (c : Client) (params : List Byte) (s : State) : Decision :=
  match params with
  | [r] => s.decideQuery c r
  | _ => s.answer .badParams

def queryRequest : ClientRequest :=
  { code := codeQuery, length := 1, inRange := anyParams, whenDisabled := false
    rule := queryRule }

def execQuery (p : Client) (tag : Byte) (params : List Byte) (crc : Byte) (s : State) :
    Host.Outcome State Fault Refusal :=
  .next (s.clientRequest p queryRequest tag params crc)

end Sys2Proof.Machine
end

