-- ==== Sys2Proof/Machine/SessionRequests.lean ====
section
/-! DEFINITION. Sessions and policies (Chapter 6): OPEN, CLOSE, KEEPALIVE, EVICT, SET POLICY,
INSPECT CLIENT and the lapse; FETCH and SET ATTENTION (Chapter 7); STATUS (R158). -/

namespace Sys2Proof.Machine

/-! OPEN -/

/-- A session notice. -/
def Notice.ofSession : Notice → Bool
  | .resource _ _ _ => false
  | .sessionLapsed _ => true
  | .sessionEvicted _ => true

/-- The client is LAPSED with its session notice unread (R108). -/
def State.lapseUnread (s : State) (c : Client) : Bool :=
  (s.session c).port == .lapsed && (s.noticeQueue c).queue.any Notice.ofSession

/-- The number of the next session (R109). -/
def nextSession (n : BitVec 16) : BitVec 16 := if n = 65535 then 1 else n + 1

/-- Steps 2 to 5 of TABLE 6-3. -/
def State.openChecks (s : State) (c : Client) (ttl : Ticks) : List (Bool × Status) :=
  let p := (s.session c).policy
  [ (!s.attached c, .alreadyOpen),
    (!s.lapseUnread c, .lapseUnread),
    (decide (ttl ≤ p.maxTtl), .ttlRefused),
    (ttl != 0 || p.unwatched, .ttlRefused) ]

/-- The attention mask with all six resource kinds (R132). -/
def allKinds : BitVec 6 := BitVec.allOnes 6

/-- A session is opened (R109). -/
def State.openNow (s : State) (c : Client) (ttl : Ticks) : State :=
  let x := s.session c
  let t := s.setSession c { x with port := .attached, number := nextSession x.number, ttl }
  let u := if ttl ≠ 0 then t.arm (.session c) ttl else t
  u.setNoticeQueue c { u.noticeQueue c with mask := allKinds }

/-- OPEN (R108, R109). -/
def State.decideOpen (s : State) (c : Client) (ttl : Ticks) : Decision :=
  s.checked (s.openChecks c ttl)
    ((s.openNow c ttl).reply .ok (bytesOf 2 (nextSession (s.session c).number)))

def openRule (c : Client) (params : List Byte) (s : State) : Decision :=
  match params with
  | [t1, t0] => s.decideOpen c (half t1 t0)
  | _ => s.answer .badParams

def openRequest : ClientRequest :=
  { code := codeOpen, length := 2, inRange := anyParams, whenDisabled := false
    rule := openRule }

def execOpen (p : Client) (tag : Byte) (params : List Byte) (crc : Byte) (s : State) :
    Host.Outcome State Fault Refusal :=
  .next (s.clientRequest p openRequest tag params crc)

/-! The end of a session -/

/-- The session TTL becomes 0 and the port state is `ended`; the number is kept. -/
def State.endSession (s : State) (c : Client) (ended : PortState) : State :=
  s.setSession c { s.session c with port := ended, ttl := 0 }

/-- CLOSE of an ATTACHED client (R112). -/
def State.closeNow (s : State) (c : Client) : State :=
  ((s.disarm (.session c)).massRelease c).endSession c .detached

/-- The lapse of a client whose SESSION deadline has been delivered (R113). -/
def State.lapseNow (s : State) (c : Client) : State :=
  (((s.massRelease c).placeSessionNotice c (.sessionLapsed (s.session c).number)).endSession c
    .lapsed).raise (.lapse c)

/-- The eviction of an ATTACHED client (R115, steps 1 to 4). -/
def State.evictNow (s : State) (c : Client) : State :=
  (((s.disarm (.session c)).massRelease c).placeSessionNotice c
    (.sessionEvicted (s.session c).number)).endSession c .lapsed

/-! CLOSE -/

def closeRule (c : Client) (_ : List Byte) (s : State) : Decision :=
  if s.attached c then (s.closeNow c).reply .ok [countByte (s.leaseCount c)]
  else s.answer .noSession

def closeRequest : ClientRequest :=
  { code := codeClose, length := 0, inRange := anyParams, whenDisabled := false
    rule := closeRule }

def execClose (p : Client) (tag : Byte) (params : List Byte) (crc : Byte) (s : State) :
    Host.Outcome State Fault Refusal :=
  .next (s.clientRequest p closeRequest tag params crc)

/-! KEEPALIVE (R110) -/

def keepaliveRule (c : Client) (_ : List Byte) (s : State) : Decision :=
  if s.attached c then s.reply .ok (bytesOf 2 (s.session c).ttl) else s.answer .noSession

def keepaliveRequest : ClientRequest :=
  { code := codeKeepalive, length := 0, inRange := anyParams, whenDisabled := false
    rule := keepaliveRule }

def execKeepalive (p : Client) (tag : Byte) (params : List Byte) (crc : Byte) (s : State) :
    Host.Outcome State Fault Refusal :=
  .next (s.clientRequest p keepaliveRequest tag params crc)

/-! FETCH (R129, R130) -/

def fetchRule (c : Client) (_ : List Byte) (s : State) : Decision :=
  let q := s.noticeQueue c
  match q.queue with
  | [] => s.reply .empty [0]
  | n :: rest =>
    ((s.setNoticeQueue c { q with queue := rest }).reportRemoved c n).reply .ok
      (countByte rest.length :: n.bytes)

def fetchRequest : ClientRequest :=
  { code := codeFetch, length := 0, inRange := anyParams, whenDisabled := true
    rule := fetchRule }

def execFetch (p : Client) (tag : Byte) (params : List Byte) (crc : Byte) (s : State) :
    Host.Outcome State Fault Refusal :=
  .next (s.clientRequest p fetchRequest tag params crc)

/-! SET ATTENTION (R133) -/

/-- The set of SET ATTENTION is the field the port checks (R148). -/
def attentionInRange : List Byte → Bool
  | [m] => (flagsBelow 6 m).isSome
  | _ => false

def setAttentionRule (c : Client) (params : List Byte) (s : State) : Decision :=
  if s.attached c then
    match params with
    | [m] => (s.setNoticeQueue c { s.noticeQueue c with mask := m.setWidth 6 }).answer .ok
    | _ => s.answer .badParams
  else s.answer .noSession

def setAttentionRequest : ClientRequest :=
  { code := codeSetAttention, length := 1, inRange := attentionInRange, whenDisabled := false
    rule := setAttentionRule }

def execSetAttention (p : Client) (tag : Byte) (params : List Byte) (crc : Byte) (s : State) :
    Host.Outcome State Fault Refusal :=
  .next (s.clientRequest p setAttentionRequest tag params crc)

/-! STATUS -/

/-- The STATUS payload (R158, TABLE 11-5). -/
def State.statusBytes (s : State) (c : Client) : List Byte :=
  let x := s.session c
  [x.port.code, flagByte x.policy.enabled] ++ bytesOf 2 x.number
    ++ [countByte x.tally, countByte (s.noticeQueue c).queue.length, (s.cpi c).linkErrors]
    ++ bytesOf 4 s.clock ++ bytesOf 2 Config.deviceCode

def statusRule (c : Client) (_ : List Byte) (s : State) : Decision :=
  s.reply .ok (s.statusBytes c)

def statusRequest : ClientRequest :=
  { code := codeStatus, length := 0, inRange := anyParams, whenDisabled := true
    rule := statusRule }

def execStatus (p : Client) (tag : Byte) (params : List Byte) (crc : Byte) (s : State) :
    Host.Outcome State Fault Refusal :=
  .next (s.clientRequest p statusRequest tag params crc)

/-! EVICT (R115) -/

def evictRule (params : List Byte) (s : State) : Decision :=
  match params with
  | [c] =>
    s.withClient c fun c =>
      s.checked [(s.attached c, .notAttached)]
        ((s.evictNow c).reply .ok [countByte (s.leaseCount c)])
  | _ => s.answer .badParams

def evictRequest : SupervisorRequest := { code := codeEvict, length := 1, rule := evictRule }

def execEvict (tag : Byte) (params : List Byte) (crc : Byte) (s : State) :
    Host.Outcome State Fault Refusal :=
  .next (s.supervisorRequest evictRequest tag params crc)

/-! SET POLICY (R116) -/

/-- The policy is written, and a client the policy disables while ATTACHED is evicted. -/
def State.setPolicyNow (s : State) (c : Client) (p : Policy) : Decision :=
  let t := s.setSession c { s.session c with policy := p }
  if s.attached c && !p.enabled then (t.evictNow c).reply .ok [flagByte true]
  else t.reply .ok [flagByte false]

/-- The bytes of enabled and unwatched allowed are judged after the named checks (R173). -/
def setPolicyRule (params : List Byte) (s : State) : Decision :=
  match params with
  | [c, e, t1, t0, u] =>
    s.withClient c fun c =>
      if half t1 t0 = 0 then s.answer .badParams
      else
        match flagOf e, flagOf u with
        | some enabled, some unwatched =>
          s.setPolicyNow c { enabled, maxTtl := half t1 t0, unwatched }
        | _, _ => s.answer .badParams
  | _ => s.answer .badParams

def setPolicyRequest : SupervisorRequest :=
  { code := codeSetPolicy, length := 5, rule := setPolicyRule }

def execSetPolicy (tag : Byte) (params : List Byte) (crc : Byte) (s : State) :
    Host.Outcome State Fault Refusal :=
  .next (s.supervisorRequest setPolicyRequest tag params crc)

/-! INSPECT CLIENT -/

/-- The INSPECT CLIENT payload (R120, TABLE 11-5). Bits 6 and 7 of the attention mask's byte are 0 by
choice (entry 16). -/
def State.clientBytes (s : State) (c : Client) : List Byte :=
  let x := s.session c
  let q := s.noticeQueue c
  [x.port.code, flagByte x.policy.enabled] ++ bytesOf 2 x.policy.maxTtl
    ++ [flagByte x.policy.unwatched] ++ bytesOf 2 x.number ++ bytesOf 2 x.ttl
    ++ bytesOf 2 (s.remaining (.session c))
    ++ [countByte x.tally, countByte q.queue.length, q.mask.setWidth 8, (s.cpi c).linkErrors]
    ++ bytesOf 8 (resourceSet fun r => s.holds r c)
    ++ bytesOf 8 (resourceSet fun r => s.waits r c)

def inspectClientRule (params : List Byte) (s : State) : Decision :=
  match params with
  | [c] => s.withClient c fun c => s.reply .ok (s.clientBytes c)
  | _ => s.answer .badParams

def inspectClientRequest : SupervisorRequest :=
  { code := codeInspectClient, length := 1, rule := inspectClientRule }

def execInspectClient (tag : Byte) (params : List Byte) (crc : Byte) (s : State) :
    Host.Outcome State Fault Refusal :=
  .next (s.supervisorRequest inspectClientRequest tag params crc)

end Sys2Proof.Machine
end

