-- ==== Sys2Proof/Machine/ClockEvents.lean ====
section
/-! DEFINITION. The lease clock: expiries, the tick event, the reference-clock period, SET TIMEBASE
and LIST DEADLINES (Chapter 4, with the expiry rules of Chapters 2, 3, 5 and 6). -/

namespace Sys2Proof.Machine

/-! What each owner does with an expiry. The entry has already left the deadline list. -/

/-- Hold expiry: LEASE_EXPIRED, the client's UPGRADE entry, then the release path (R41, R42). -/
def State.holdExpired (s : State) (r : Res) (c : Client) : State :=
  match (s.record r).lease c with
  | some l => ((s.notify c r (.leaseExpired l.token)).removeUpgrade r c).endLease r c false
  | none => s

/-- Wait expiry: CLAIM_TIMED_OUT, the entry, then the grant rule (R62, R63). -/
def State.waitExpired (s : State) (i : PoolIx) : State :=
  match s.entry i with
  | some e => ((s.notify e.client e.resource .claimTimedOut).removeEntry i).grantRule e.resource
  | none => s

/-- Grace expiry: every remaining holder is removed and FORCED_REVOKE is raised (R91). A record
whose resource deadline is not GRACE has no such expiry (R2, R78, entry 4). -/
def State.graceExpired (s : State) (r : Res) : State :=
  if (s.record r).deadline = .grace then (s.removeHolders r).raise .forcedRevoke else s

/-- Guard expiry: to OFFLINE with retire pending, else to IDLE and the grant rule (R95). A record
whose resource deadline is not GUARD has no such expiry (R2, R78, entry 4). -/
def State.guardExpired (s : State) (r : Res) : State :=
  let x := s.record r
  if x.deadline = .guard then
    if x.retirePending then s.goOffline r
    else (s.setRecord r { x with state := .idle, deadline := .absent }).grantRule r
  else s

/-- Session expiry (R113). A client that is not ATTACHED has none (R105, R78, entry 4). -/
def State.sessionExpired (s : State) (c : Client) : State :=
  if s.attached c then s.lapseNow c else s

/-- Delivery of an expiry to its owner (TABLE 4-2). -/
def State.deliver (s : State) : DeadlineId → State
  | .hold r c => s.holdExpired r c
  | .wait i => s.waitExpired i
  | .session c => s.sessionExpired c
  | .grace r => s.graceExpired r
  | .guard r => s.guardExpired r

/-- An armed deadline leaves the list and is delivered; one that is not armed brings no expiry
(R74, R77, R78, entry 4). -/
def State.expire (s : State) (id : DeadlineId) : State :=
  if s.armed id then (s.disarm id).deliver id else s

def execHoldDeadlineExpiry (r : Res) (c : Client) (s : State) :
    Host.Outcome State Fault Refusal :=
  .next (s.expire (.hold r c))

def execWaitDeadlineExpiry (i : PoolIx) (s : State) : Host.Outcome State Fault Refusal :=
  .next (s.expire (.wait i))

def execLapse (c : Client) (s : State) : Host.Outcome State Fault Refusal :=
  .next (s.expire (.session c))

def execGraceExpiry (r : Res) (s : State) : Host.Outcome State Fault Refusal :=
  .next (s.expire (.grace r))

def execGuardExpiry (r : Res) (s : State) : Host.Outcome State Fault Refusal :=
  .next (s.expire (.guard r))

/-! The tick event (R77) -/

/-- Every entry due at the lease clock value is taken from the head, one at a time, and delivered
whole before the next. `fuel` bounds the deliveries; an expiry arms nothing due now, so the length
of the list is enough. -/
def State.deliverDue : Nat → State → State
  | 0, s => s
  | fuel + 1, s =>
    match s.deadlines with
    | d :: rest =>
      if d.due = s.clock then ((s.setDeadlines rest).deliver d.id).deliverDue fuel else s
    | [] => s

/-- One tick: the lease clock advances, then every due deadline is delivered (R71, R77). -/
def State.tick (s : State) : State :=
  (s.setClock (s.clock + 1)).deliverDue s.deadlines.length

/-- A tick event of the source: it is one only while the source is selected, and the reference
count starts again at an internal one (R69, R70, entry 6). -/
def State.tickFrom (s : State) (src : TickSource) : State :=
  if s.timebase.source = src then
    match src with
    | .internal => (s.setRefCount 0).tick
    | .external => s.tick
  else s

def execTickEvent (src : TickSource) (s : State) : Host.Outcome State Fault Refusal :=
  .next (s.tickFrom src)

/-- The divisor of the 16 MHz reference (TABLE 4-1). -/
def divisor (period : Fin 4) : Nat := 160 * 10 ^ period.val

/-- One period of the reference clock (R70, entry 5). -/
def State.referencePeriod (s : State) : State :=
  match s.timebase.source with
  | .internal =>
    if divisor s.timebase.period ≤ s.refCount + 1 then (s.setRefCount 0).tick
    else s.setRefCount (s.refCount + 1)
  | .external => s

/-! SET TIMEBASE (R80) -/

def setTimebaseRule (params : List Byte) (s : State) : Decision :=
  match params with
  | [v, k] =>
    match sourceOf v, numberBelow 4 k with
    | some source, some period =>
      s.checked [(s.deadlines.isEmpty, .liveDeadlines)]
        (((s.setTimebase { source, period }).setRefCount 0).answer .ok)
    | _, _ => s.answer .badParams
  | _ => s.answer .badParams

def setTimebaseRequest : SupervisorRequest :=
  { code := codeSetTimebase, length := 2, rule := setTimebaseRule }

def execSetTimebase (tag : Byte) (params : List Byte) (crc : Byte) (s : State) :
    Host.Outcome State Fault Refusal :=
  .next (s.supervisorRequest setTimebaseRequest tag params crc)

/-! LIST DEADLINES -/

/-- One entry of the LIST DEADLINES payload (R82, R175). -/
def Deadline.bytes (now : Clock) (d : Deadline) : List Byte :=
  d.id.kindCode :: d.id.ownerBytes ++ bytesOf 2 ((d.remaining now).setWidth 16)

/-- The LIST DEADLINES payload (R82, TABLE 11-5). -/
def State.deadlinesView (s : State) (start : Nat) : List Byte :=
  let shown := (s.deadlines.drop start).take 6
  bytesOf 4 s.clock
    ++ [ tickSourceCode s.timebase.source, numberByte s.timebase.period, countByte s.deadlines.length,
         countByte shown.length ]
    ++ shown.flatMap (Deadline.bytes s.clock)

/-- LIST DEADLINES (R82). -/
def listDeadlinesRule (params : List Byte) (s : State) : Decision :=
  match params with
  | [start] =>
    if 160 ≤ start.toNat then s.answer .badParams
    else s.reply .ok (s.deadlinesView start.toNat)
  | _ => s.answer .badParams

def listDeadlinesRequest : SupervisorRequest :=
  { code := codeListDeadlines, length := 1, rule := listDeadlinesRule }

def execListDeadlines (tag : Byte) (params : List Byte) (crc : Byte) (s : State) :
    Host.Outcome State Fault Refusal :=
  .next (s.supervisorRequest listDeadlinesRequest tag params crc)

end Sys2Proof.Machine
end

