-- ==== Sys2Proof/Machine/GateRequests.lean ====
section
/-! DEFINITION. BIND GATE, UNBIND GATE and READ GATES (Chapter 8). -/

namespace Sys2Proof.Machine

/-- BIND GATE once its checks have passed; the pin takes the level of R137 at once (R140). Bits 2 to 7
of the payload byte, which TABLE 11-5 does not define, are 0 by choice (entry 16). -/
def State.bindNow (s : State) (g : Gate) (b : Binding) : Decision :=
  let t := s.setGate g (some b)
  t.reply .ok [flagByte (t.gateLevel g) ||| (flagByte (t.gateActive g) <<< 1)]

/-- BIND GATE: the checks in the order of R140. -/
def bindGateRule (params : List Byte) (s : State) : Decision :=
  match params with
  | [g, r, c, v, p] =>
    match numberBelow 16 g with
    | none => s.answer .noGate
    | some g =>
      s.withNumber r fun r => s.withClient c fun c =>
        match coverOf v, polarityOf p with
        | some cover, some polarity =>
          s.checked [((s.gate g).isNone, .gateBound)]
            (s.bindNow g { resource := r, client := c, cover, polarity })
        | _, _ => s.answer .badParams
  | _ => s.answer .badParams

def bindGateRequest : SupervisorRequest :=
  { code := codeBindGate, length := 5, rule := bindGateRule }

def execBindGate (tag : Byte) (params : List Byte) (crc : Byte) (s : State) :
    Host.Outcome State Fault Refusal :=
  .next (s.supervisorRequest bindGateRequest tag params crc)

/-- UNBIND GATE (R141). Bits 1 to 7 of the payload byte are 0 by choice (entry 16). -/
def unbindGateRule (params : List Byte) (s : State) : Decision :=
  match params with
  | [g] =>
    match numberBelow 16 g with
    | none => s.answer .noGate
    | some g => (s.setGate g none).reply .ok [flagByte (s.gate g).isSome]
  | _ => s.answer .badParams

def unbindGateRequest : SupervisorRequest :=
  { code := codeUnbindGate, length := 1, rule := unbindGateRule }

def execUnbindGate (tag : Byte) (params : List Byte) (crc : Byte) (s : State) :
    Host.Outcome State Fault Refusal :=
  .next (s.supervisorRequest unbindGateRequest tag params crc)

/-- The two bytes of a gate in READ GATES: client in bits 0 to 1, cover in bit 4, polarity in
bit 5, pin high in bit 6, bound in bit 7; then the resource (R143, TABLE 11-5). Bits 2 and 3, which
the table does not define, are 0 by choice (entry 16). -/
def State.gateBytes (s : State) (g : Gate) : List Byte :=
  let high := flagByte (s.gateLevel g) <<< 6
  match s.gate g with
  | some b =>
    [ numberByte b.client ||| (b.cover.code <<< 4) ||| (b.polarity.code <<< 5) ||| high ||| 0x80,
      numberByte b.resource ]
  | none => [high, 0]

/-- The READ GATES payload. -/
def State.gatesView (s : State) : List Byte := (List.finRange 16).flatMap s.gateBytes

def readGatesRule (_ : List Byte) (s : State) : Decision := s.reply .ok s.gatesView

def readGatesRequest : SupervisorRequest :=
  { code := codeReadGates, length := 0, rule := readGatesRule }

def execReadGates (tag : Byte) (params : List Byte) (crc : Byte) (s : State) :
    Host.Outcome State Fault Refusal :=
  .next (s.supervisorRequest readGatesRequest tag params crc)

end Sys2Proof.Machine
end

