-- ==== Sys2Proof/Machine/ResourceRequests.lean ====
section
/-! DEFINITION. The supervisor's requests on resources: DEFINE, AMEND, INSPECT RESOURCE
(Chapter 1), INSPECT QUEUE (Chapter 3), REVOKE and RETIRE (Chapter 5). -/

namespace Sys2Proof.Machine

/-! Attribute sets (R5) -/

/-- The attribute set of DEFINE and AMEND; none where the validation of R5 refuses it. -/
def attributesOf (modes mask : Byte) (maxHold defaultHold guard grace : Ticks) :
    Option Attributes :=
  match modesPermittedOf modes, flagsBelow 4 mask with
  | some m, some k =>
    if k = 0 ∨ (maxHold ≠ 0 ∧ defaultHold ≠ 0 ∧ maxHold < defaultHold) then none
    else some { modes := m, mask := k, maxHold, defaultHold, guard, grace }
  | _, _ => none

/-- The parameters of DEFINE and AMEND: the number is checked first, then the attribute set
(R6, R8). -/
def State.withAttributes (s : State) (params : List Byte) (next : Res → Attributes → Decision) :
    Decision :=
  match params with
  | [r, m, k, h1, h0, d1, d0, u1, u0, c1, c0] =>
    s.withNumber r fun r =>
      match attributesOf m k (half h1 h0) (half d1 d0) (half u1 u0) (half c1 c0) with
      | some a => next r a
      | none => s.answer .badParams
  | _ => s.answer .badParams

/-! DEFINE -/

/-- The record of a newly defined resource (R7). -/
def Record.defined (a : Attributes) : Record := { Record.cleared with state := .idle, attrs := a }

/-- DEFINE (R6, R7). -/
def defineRule (params : List Byte) (s : State) : Decision :=
  s.withAttributes params fun r a =>
    s.checked [((s.record r).state == .offline, .alreadyDefined)]
      ((s.setRecord r (Record.defined a)).answer .ok)

def defineRequest : SupervisorRequest := { code := codeDefine, length := 11, rule := defineRule }

def execDefine (tag : Byte) (params : List Byte) (crc : Byte) (s : State) :
    Host.Outcome State Fault Refusal :=
  .next (s.supervisorRequest defineRequest tag params crc)

/-! AMEND -/

/-- The new modes permitted exclude a lease or a wait entry of this mode (TABLE 1-7). -/
def ModesPermitted.excludesMode (m : ModesPermitted) : Mode → Bool
  | .exclusive => m == .sharedOnly
  | .shared => m == .exclusiveOnly

/-- The new attributes exclude the wait entry (TABLE 1-7). -/
def Attributes.excludesEntry (a : Attributes) (e : WaitEntry) : Bool :=
  a.modes.excludesMode e.kind.mode || !a.mask.getLsbD e.client.val

/-- The new attributes exclude a holder of the record (TABLE 1-7). -/
def Attributes.excludesHolder (a : Attributes) (x : Record) : Bool :=
  x.holders.any fun c =>
    !a.mask.getLsbD c.val
      || match x.heldMode with
         | some m => a.modes.excludesMode m
         | none => false

/-- The IN_USE test of R9. -/
def State.excludes (s : State) (r : Res) (a : Attributes) : Bool :=
  a.excludesHolder (s.record r)
    || (s.queue r).any fun i =>
        match s.entry i with
        | some e => a.excludesEntry e
        | none => false

/-- AMEND (R8 to R10). -/
def amendRule (params : List Byte) (s : State) : Decision :=
  s.withAttributes params fun r a =>
    let x := s.record r
    s.checked
      [ (x.state != .offline, .offline),
        (!x.retirePending, .retiring),
        (!s.excludes r a, .inUse) ]
      ((s.setRecord r { x with attrs := a }).answer .ok)

def amendRequest : SupervisorRequest := { code := codeAmend, length := 11, rule := amendRule }

def execAmend (tag : Byte) (params : List Byte) (crc : Byte) (s : State) :
    Host.Outcome State Fault Refusal :=
  .next (s.supervisorRequest amendRequest tag params crc)

/-! INSPECT RESOURCE -/

/-- Ticks remaining to the resource deadline, 0 when the field is ABSENT (R13). -/
def State.resourceRemaining (s : State) (r : Res) : Ticks :=
  match (s.record r).deadline with
  | .absent => 0
  | .grace => s.remaining (.grace r)
  | .guard => s.remaining (.guard r)

/-- The RECORD view (R13, TABLE 11-5). Bits 4 to 7 of the client mask's byte are 0 by choice
(entry 16). -/
def State.recordView (s : State) (r : Res) : List Byte :=
  let x := s.record r
  [ x.state.code, heldModeCode x.reportedMode, flagByte x.retirePending, x.attrs.modes.code,
    x.attrs.mask.setWidth 8 ]
    ++ bytesOf 2 x.attrs.maxHold ++ bytesOf 2 x.attrs.defaultHold ++ bytesOf 2 x.attrs.guard
    ++ bytesOf 2 x.attrs.grace
    ++ [countByte x.holders.length, countByte (s.queue r).length, x.deadline.code]
    ++ bytesOf 2 (s.resourceRemaining r) ++ bytesOf 4 s.clock ++ bytesOf 6 s.nextToken

/-- The HOLDERS view (R14, TABLE 11-5). -/
def State.holdersView (s : State) (r : Res) : List Byte := allClients.flatMap (s.leaseBytes r)

/-- INSPECT RESOURCE (R12). -/
def inspectResourceRule (params : List Byte) (s : State) : Decision :=
  match params with
  | [r, v] =>
    s.withNumber r fun r =>
      if v = 0 then s.reply .ok (s.recordView r)
      else if v = 1 then s.reply .ok (s.holdersView r)
      else s.answer .badParams
  | _ => s.answer .badParams

def inspectResourceRequest : SupervisorRequest :=
  { code := codeInspectResource, length := 2, rule := inspectResourceRule }

def execInspectResource (tag : Byte) (params : List Byte) (crc : Byte) (s : State) :
    Host.Outcome State Fault Refusal :=
  .next (s.supervisorRequest inspectResourceRequest tag params crc)

/-! INSPECT QUEUE -/

/-- One entry of the INSPECT QUEUE payload (TABLE 11-5). Bits 2, 3, 6 and 7 of its second byte are 0
by choice (entry 16). -/
def State.entryBytes (s : State) (i : PoolIx) : List Byte :=
  match s.entry i with
  | some e =>
    [numberByte i, numberByte e.client ||| (e.kind.code <<< 4)] ++ bytesOf 2 e.hold
      ++ bytesOf 2 (s.remaining (.wait i))
  | none => List.replicate 6 0

/-- The INSPECT QUEUE payload (R66). -/
def State.queueView (s : State) (r : Res) (start : Nat) : List Byte :=
  let q := s.queue r
  let shown := (q.drop start).take 7
  [countByte q.length, countByte shown.length] ++ shown.flatMap s.entryBytes

/-- INSPECT QUEUE (R66). -/
def inspectQueueRule (params : List Byte) (s : State) : Decision :=
  match params with
  | [r, start] =>
    s.withNumber r fun r =>
      if 32 ≤ start.toNat then s.answer .badParams
      else s.reply .ok (s.queueView r start.toNat)
  | _ => s.answer .badParams

def inspectQueueRequest : SupervisorRequest :=
  { code := codeInspectQueue, length := 2, rule := inspectQueueRule }

def execInspectQueue (tag : Byte) (params : List Byte) (crc : Byte) (s : State) :
    Host.Outcome State Fault Refusal :=
  .next (s.supervisorRequest inspectQueueRequest tag params crc)

/-! Cancelled entries -/

/-- A wait entry is removed with CLAIM_CANCELLED (R87, R97, R98). -/
def State.cancelEntry (s : State) (i : PoolIx) : State :=
  match s.entry i with
  | some e => (s.notify e.client e.resource .claimCancelled).removeEntry i
  | none => s

/-- Every entry of the queue is cancelled, from the head to the tail (R98). -/
def State.cancelQueue (s : State) (r : Res) : State := (s.queue r).foldl State.cancelEntry s

/-! REVOKE -/

/-- The UPGRADE entry at the head of the queue. -/
def State.upgradeHead (s : State) (r : Res) : Option PoolIx :=
  (s.queue r).head?.filter s.isUpgrade

/-- Step 1 of R87: an UPGRADE head is cancelled. -/
def State.cancelUpgrade (s : State) (r : Res) : State :=
  match s.upgradeHead r with
  | some i => s.cancelEntry i
  | none => s

/-- REVOKE_WARNING to one holder. -/
def State.warnHolder (r : Res) (s : State) (c : Client) : State :=
  match (s.record r).lease c with
  | some l => s.notify c r (.revokeWarning l.token)
  | none => s

/-- A revocation with grace: the holders are warned, the record enters REVOKING and the GRACE
deadline is armed (R87). -/
def State.revokeWithGrace (s : State) (r : Res) : State :=
  let t := s.cancelUpgrade r
  let u := (t.record r).holders.foldl (State.warnHolder r) t
  (u.setRecord r { u.record r with state := .revoking, deadline := .grace }).arm (.grace r)
    (u.record r).attrs.grace

/-- A revocation with grace 0: the holders are removed and FORCED_REVOKE is raised (R88). -/
def State.revokeAtOnce (s : State) (r : Res) : State :=
  ((s.cancelUpgrade r).removeHolders r).raise .forcedRevoke

/-- The flags of an accepted REVOKE: bit 0 forced, bit 1 upgrade cancelled (R86); bits 2 to 7 are 0 by
choice (entry 16). -/
def revokeFlags (forced cancelled : Bool) : Byte :=
  flagByte forced ||| (flagByte cancelled <<< 1)

/-- The checks of R86 after the number. -/
def State.revokeChecks (s : State) (r : Res) : List (Bool × Status) :=
  let x := s.record r
  [ (x.state != .offline, .offline),
    (x.state != .revoking, .alreadyRevoking),
    (x.state == .held, .notHeld) ]

/-- REVOKE (R86 to R88). -/
def State.decideRevoke (s : State) (r : Res) : Decision :=
  let x := s.record r
  let forced := x.attrs.grace == 0
  s.checked (s.revokeChecks r)
    ((if forced then s.revokeAtOnce r else s.revokeWithGrace r).reply .ok
      [countByte x.holders.length, revokeFlags forced (s.upgradeHead r).isSome])

def revokeRule (params : List Byte) (s : State) : Decision :=
  match params with
  | [r] => s.withNumber r s.decideRevoke
  | _ => s.answer .badParams

def revokeRequest : SupervisorRequest := { code := codeRevoke, length := 1, rule := revokeRule }

def execRevoke (tag : Byte) (params : List Byte) (crc : Byte) (s : State) :
    Host.Outcome State Fault Refusal :=
  .next (s.supervisorRequest revokeRequest tag params crc)

/-! RETIRE -/

/-- RETIRE of a record in use: the mark is set, then every waiter is cancelled (R98). -/
def State.retireInUse (s : State) (r : Res) : State :=
  (s.setRecord r { s.record r with retirePending := true }).cancelQueue r

/-- RETIRE (R97, R98). -/
def State.decideRetire (s : State) (r : Res) : Decision :=
  let x := s.record r
  s.checked [(x.state != .offline, .offline), (!x.retirePending, .retiring)]
    (if x.state = .idle then
      ((s.cancelQueue r).goOffline r).reply .ok [flagByte false, countByte (s.queue r).length]
    else (s.retireInUse r).reply .ok [flagByte true, countByte (s.queue r).length])

def retireRule (params : List Byte) (s : State) : Decision :=
  match params with
  | [r] => s.withNumber r s.decideRetire
  | _ => s.answer .badParams

def retireRequest : SupervisorRequest := { code := codeRetire, length := 1, rule := retireRule }

def execRetire (tag : Byte) (params : List Byte) (crc : Byte) (s : State) :
    Host.Outcome State Fault Refusal :=
  .next (s.supervisorRequest retireRequest tag params crc)

end Sys2Proof.Machine
end

