-- ==== Sys2Proof/Machine/SupervisorRequests.lean ====
section
/-! DEFINITION. READ EVENTS, ACK EVENTS, SET EVENT MASK and CLEAR ALL (Chapter 10). -/

namespace Sys2Proof.Machine

/-! The event set -/

/-- READ EVENTS (R168). The bits of a set that stand for no source are 0 by choice (entry 16). -/
def readEventsRule (_ : List Byte) (s : State) : Decision :=
  s.reply .ok
    (bytesOf 2 (s.supervisor.events.setWidth 16) ++ bytesOf 2 (s.supervisor.mask.setWidth 16))

def readEventsRequest : SupervisorRequest :=
  { code := codeReadEvents, length := 0, rule := readEventsRule }

def execReadEvents (tag : Byte) (params : List Byte) (crc : Byte) (s : State) :
    Host.Outcome State Fault Refusal :=
  .next (s.supervisorRequest readEventsRequest tag params crc)

/-- The named sources leave the event set (R169). -/
def State.acknowledge (s : State) (named : BitVec 11) : State :=
  s.setSupervisor { s.supervisor with events := s.supervisor.events &&& ~~~named }

/-- ACK EVENTS (R169). Bits 11 to 15 of the set it answers are 0 by choice (entry 16). -/
def ackEventsRule (params : List Byte) (s : State) : Decision :=
  match params with
  | [e1, e0] =>
    match flagsBelow 11 (half e1 e0) with
    | some named =>
      let t := s.acknowledge named
      t.reply .ok (bytesOf 2 (t.supervisor.events.setWidth 16))
    | none => s.answer .badParams
  | _ => s.answer .badParams

def ackEventsRequest : SupervisorRequest :=
  { code := codeAckEvents, length := 2, rule := ackEventsRule }

def execAckEvents (tag : Byte) (params : List Byte) (crc : Byte) (s : State) :
    Host.Outcome State Fault Refusal :=
  .next (s.supervisorRequest ackEventsRequest tag params crc)

/-- SET EVENT MASK (R170). -/
def setEventMaskRule (params : List Byte) (s : State) : Decision :=
  match params with
  | [e1, e0] =>
    match flagsBelow 11 (half e1 e0) with
    | some named => (s.setSupervisor { s.supervisor with mask := named }).answer .ok
    | none => s.answer .badParams
  | _ => s.answer .badParams

def setEventMaskRequest : SupervisorRequest :=
  { code := codeSetEventMask, length := 2, rule := setEventMaskRule }

def execSetEventMask (tag : Byte) (params : List Byte) (crc : Byte) (s : State) :
    Host.Outcome State Fault Refusal :=
  .next (s.supervisorRequest setEventMaskRequest tag params crc)

/-! CLEAR ALL (R171) -/

/-- A record brought to rest: OFFLINE and cleared with retire pending or where it was OFFLINE, else
IDLE with its attributes (R17). -/
def Record.atRest (x : Record) : Record :=
  if x.state = .offline ∨ x.retirePending then Record.cleared
  else
    { x with
      state := .idle, heldMode := none, slots := Vector.replicate 4 none, deadline := .absent }

/-- A client made DETACHED; policy and session number are kept (R122). -/
def Session.atRest (x : Session) : Session :=
  { x with port := .detached, ttl := 0, involved := Vector.replicate 64 false }

/-- A queue emptied; the mask is kept (R135). -/
def NoticeQueue.atRest (x : NoticeQueue) : NoticeQueue := { x with queue := [] }

/-- A CPI's replay record and link error count cleared; the framing is kept (R160). -/
def Cpi.atRest (x : Cpi) : Cpi :=
  { x with lastTag := 0, lastRequest := [], lastResponse := none, linkErrors := 0 }

/-- Every block's part of CLEAR ALL (R17, R45, R68, R85, R103, R122, R135, R144, R160). -/
def State.clearAllNow (s : State) : State :=
  { s with
    records := s.records.map Record.atRest
    entries := Vector.replicate 32 none
    queues := Vector.replicate 64 []
    deadlines := []
    sessions := s.sessions.map Session.atRest
    notices := s.notices.map NoticeQueue.atRest
    cpis := s.cpis.map Cpi.atRest }

def clearAllRule (_ : List Byte) (s : State) : Decision := s.clearAllNow.answer .ok

def clearAllRequest : SupervisorRequest :=
  { code := codeClearAll, length := 0, rule := clearAllRule }

def execClearAll (tag : Byte) (params : List Byte) (crc : Byte) (s : State) :
    Host.Outcome State Fault Refusal :=
  .next (s.supervisorRequest clearAllRequest tag params crc)

end Sys2Proof.Machine
end

