-- ==== Sys2Proof/Machine/LinkEvents.lean ====
section
/-! DEFINITION. The catalogues of the two ports, and the events of the links that carry no request
of the catalogue: unknown codes, bad lengths, cut transactions, incomplete writes, device reset, and
what happens on the wires byte by byte. -/

namespace Sys2Proof.Machine

/-! Client ports -/

/-- TABLE 9-1. -/
def clientCatalogue : List ClientRequest :=
  [ statusRequest, openRequest, closeRequest, keepaliveRequest, claimRequest, renewRequest,
    releaseRequest, downgradeRequest, upgradeRequest, withdrawRequest, queryRequest,
    fetchRequest, setAttentionRequest ]

/-- The client request a code names. -/
def clientRequestOf (code : Byte) : Option ClientRequest :=
  clientCatalogue.find? fun q => q.code == code

/-- A byte is clocked on a port: in RECEIVING it is stored, and the byte that completes the request
takes it (R146 to R148); in RESPONDING it is ignored and a byte of the response goes out (R150); with
CS high, and in DONE, it is ignored (R145, R150). -/
def State.clockByte (s : State) (p : Client) (si : Byte) : State :=
  match (s.cpi p).framing with
  | .receiving before =>
    match receive (before ++ [si]) with
    | .short => s.setFraming p (.receiving (before ++ [si]))
    | .badLength tag => s.refuseFrame p .badLength tag
    | .whole f => s.takeFrame p (clientRequestOf f.code) f
  | .responding r sent => s.setFraming p (CpiFraming.afterSending r (sent + 1))
  | .idle => s
  | .done => s

/-- Bytes are clocked on a port, one after another. -/
def State.bytesArrive (s : State) (p : Client) (arrived : List Byte) : State :=
  arrived.foldl (fun t b => t.clockByte p b) s

/-- A frame whose code names no client request (R148). -/
def execClientUnknownRequest (p : Client) (code tag : Byte) (params : List Byte) (crc : Byte)
    (s : State) : Host.Outcome State Fault Refusal :=
  if maxParams < params.length then .next ((s.beginTransaction p).refuseFrame p .badLength tag)
  else .next ((s.beginTransaction p).takeFrame p (clientRequestOf code) { code, tag, params, crc })

/-- A length byte of 17 or more (R147). -/
def execClientBadLength (p : Client) (code tag len : Byte) (s : State) :
    Host.Outcome State Fault Refusal :=
  .next ((s.beginTransaction p).bytesArrive p [code, tag, len])

/-- CS rises after the bytes have been clocked (R151, R152), in the transaction in progress or, with
CS high before, in one that CS has since begun by falling (R145, entry 2). -/
def execCutTransaction (p : Client) (arrived : List Byte) (s : State) :
    Host.Outcome State Fault Refusal :=
  .next (((s.csFall p).bytesArrive p arrived).csRise p)

/-! Supervisor port -/

/-- TABLE 10-2. -/
def supervisorCatalogue : List SupervisorRequest :=
  [ defineRequest, amendRequest, retireRequest, inspectResourceRequest, inspectQueueRequest,
    revokeRequest, bindGateRequest, unbindGateRequest, readGatesRequest, setPolicyRequest,
    evictRequest, inspectClientRequest, setTimebaseRequest, listDeadlinesRequest,
    readEventsRequest, ackEventsRequest, setEventMaskRequest, clearAllRequest ]

/-- The supervisor request a code names. -/
def supervisorRequestOf (code : Byte) : Option SupervisorRequest :=
  supervisorCatalogue.find? fun q => q.code == code

/-- A data byte of a write arrives: in RECEIVING it is stored, and the byte that completes the
request takes it (R162, R163); in any other framing state it is ignored. -/
def State.writeByte (s : State) (b : Byte) : State :=
  match s.supervisor.framing with
  | .receiving before =>
    match receive (before ++ [b]) with
    | .short => s.setSupervisorFraming (.receiving (before ++ [b]))
    | .badLength tag => State.storeDecision (s.answer .badLength) tag
    | .whole f => s.takeSupervisorFrame (supervisorRequestOf f.code) f
  | .idle => s
  | .discarding => s
  | .sending _ _ => s

/-- Data bytes of a write arrive, one after another. -/
def State.dataArrive (s : State) (arrived : List Byte) : State := arrived.foldl State.writeByte s

/-- A frame whose code names no supervisor request (R163). -/
def execSupervisorUnknownRequest (code tag : Byte) (params : List Byte) (crc : Byte)
    (s : State) : Host.Outcome State Fault Refusal :=
  if maxParams < params.length then
    .next (State.storeDecision (s.beginWrite.answer .badLength) tag)
  else
    .next (s.beginWrite.takeSupervisorFrame (supervisorRequestOf code) { code, tag, params, crc })

/-- A length byte of 17 or more (R162). -/
def execSupervisorBadLength (code tag len : Byte) (s : State) :
    Host.Outcome State Fault Refusal :=
  .next (s.beginWrite.dataArrive [code, tag, len])

/-- The framing state after the write has ended (R161, R164). -/
def framingAfter : WriteEnd → SupervisorFraming
  | .stop => .idle
  | .restartOther => .idle
  | .restartWrite => .receiving []
  | .restartRead => .sending 0 true

/-- A write transaction that ends after the bytes (R164). -/
def execIncomplete (arrived : List Byte) (ending : WriteEnd) (s : State) :
    Host.Outcome State Fault Refusal :=
  .next ((s.beginWrite.dataArrive arrived).endWrite.setSupervisorFraming (framingAfter ending))

/-! Events on the wires that no row names (entry 3) -/

def State.busEvent (s : State) : BusEvent → State
  | .csFall p => s.csFall p
  | .csRise p => s.csRise p
  | .clock p si => s.clockByte p si
  | .start a read => s.start a read
  | .write b => s.writeByte b
  | .read ack => s.sendByte ack
  | .stop => s.stop

/-! Device reset -/

/-- A CPI after device reset: IDLE, or DONE where its CS is low (R145, R160). -/
def Cpi.afterReset (csLow : Bool) : Cpi :=
  { Cpi.reset with framing := if csLow then .done else .idle }

/-- The supervisor port after device reset, at the address the straps give (R161, R165). -/
def Supervisor.afterReset (straps : BitVec 2) : Supervisor :=
  { address := Config.baseAddress + straps.setWidth 7, framing := .idle
    stored := Response.atReset, events := 0, mask := 0 }

/-- Device reset (R176). The commands and the wire events that wait are outside the block and stay
(entry 7). -/
def execDeviceReset (straps : BitVec 2) (csLow : BitVec 4) (s : State) :
    Host.Outcome State Fault Refusal :=
  .next
    { State.reset with
      cpis := Vector.ofFn fun p => Cpi.afterReset (csLow.getLsbD p.val)
      supervisor := Supervisor.afterReset straps
      pending := s.pending
      bus := s.bus }

end Sys2Proof.Machine
end

