-- ==== Sys2Proof/Machine/Dispatch.lean ====
section
/-! DEFINITION. One arm per command. -/

namespace Sys2Proof.Machine

def exec (i : Instr) (s : State) : Host.Outcome State Fault Refusal :=
  match i with
  | .status p tag params crc => Sys2Proof.Machine.execStatus p tag params crc s
  | .openSession p tag params crc => Sys2Proof.Machine.execOpen p tag params crc s
  | .closeSession p tag params crc => Sys2Proof.Machine.execClose p tag params crc s
  | .keepalive p tag params crc => Sys2Proof.Machine.execKeepalive p tag params crc s
  | .claim p tag params crc => Sys2Proof.Machine.execClaim p tag params crc s
  | .renew p tag params crc => Sys2Proof.Machine.execRenew p tag params crc s
  | .release p tag params crc => Sys2Proof.Machine.execRelease p tag params crc s
  | .downgrade p tag params crc => Sys2Proof.Machine.execDowngrade p tag params crc s
  | .upgrade p tag params crc => Sys2Proof.Machine.execUpgrade p tag params crc s
  | .withdraw p tag params crc => Sys2Proof.Machine.execWithdraw p tag params crc s
  | .query p tag params crc => Sys2Proof.Machine.execQuery p tag params crc s
  | .fetch p tag params crc => Sys2Proof.Machine.execFetch p tag params crc s
  | .setAttention p tag params crc => Sys2Proof.Machine.execSetAttention p tag params crc s
  | .clientUnknownRequest p code tag params crc => Sys2Proof.Machine.execClientUnknownRequest p code tag params crc s
  | .clientBadLength p code tag len => Sys2Proof.Machine.execClientBadLength p code tag len s
  | .cutTransaction p arrived => Sys2Proof.Machine.execCutTransaction p arrived s
  | .define tag params crc => Sys2Proof.Machine.execDefine tag params crc s
  | .amend tag params crc => Sys2Proof.Machine.execAmend tag params crc s
  | .retire tag params crc => Sys2Proof.Machine.execRetire tag params crc s
  | .inspectResource tag params crc => Sys2Proof.Machine.execInspectResource tag params crc s
  | .inspectQueue tag params crc => Sys2Proof.Machine.execInspectQueue tag params crc s
  | .revoke tag params crc => Sys2Proof.Machine.execRevoke tag params crc s
  | .bindGate tag params crc => Sys2Proof.Machine.execBindGate tag params crc s
  | .unbindGate tag params crc => Sys2Proof.Machine.execUnbindGate tag params crc s
  | .readGates tag params crc => Sys2Proof.Machine.execReadGates tag params crc s
  | .setPolicy tag params crc => Sys2Proof.Machine.execSetPolicy tag params crc s
  | .evict tag params crc => Sys2Proof.Machine.execEvict tag params crc s
  | .inspectClient tag params crc => Sys2Proof.Machine.execInspectClient tag params crc s
  | .setTimebase tag params crc => Sys2Proof.Machine.execSetTimebase tag params crc s
  | .listDeadlines tag params crc => Sys2Proof.Machine.execListDeadlines tag params crc s
  | .readEvents tag params crc => Sys2Proof.Machine.execReadEvents tag params crc s
  | .ackEvents tag params crc => Sys2Proof.Machine.execAckEvents tag params crc s
  | .setEventMask tag params crc => Sys2Proof.Machine.execSetEventMask tag params crc s
  | .clearAll tag params crc => Sys2Proof.Machine.execClearAll tag params crc s
  | .supervisorUnknownRequest code tag params crc => Sys2Proof.Machine.execSupervisorUnknownRequest code tag params crc s
  | .supervisorBadLength code tag len => Sys2Proof.Machine.execSupervisorBadLength code tag len s
  | .incomplete arrived ending => Sys2Proof.Machine.execIncomplete arrived ending s
  | .tickEvent src => Sys2Proof.Machine.execTickEvent src s
  | .holdDeadlineExpiry r c => Sys2Proof.Machine.execHoldDeadlineExpiry r c s
  | .waitDeadlineExpiry ix => Sys2Proof.Machine.execWaitDeadlineExpiry ix s
  | .lapse c => Sys2Proof.Machine.execLapse c s
  | .graceExpiry r => Sys2Proof.Machine.execGraceExpiry r s
  | .guardExpiry r => Sys2Proof.Machine.execGuardExpiry r s
  | .deviceReset straps csLow => Sys2Proof.Machine.execDeviceReset straps csLow s

end Sys2Proof.Machine
end

