-- ==== Sys2Proof/Safety.lean ====
section
/-! DEFINITION. The terms of the statements: what holds between commands (the content of a record in
each state, the wait pool, the queues at rest, the deadline list, the sessions, the notices, the
tokens), what the exchanges on the two ports leave, and what an event on one resource or one client
leaves alone. -/

namespace Sys2Proof.Machine

/-! What holds between commands -/

/-- The content of a record agrees with its state (R2, R3, R4, TABLE 1-6). -/
abbrev Record.Wf (x : Record) : Prop :=
  (x.holders ≠ [] ↔ x.state = .held ∨ x.state = .revoking)
    ∧ (x.deadline = .grace ↔ x.state = .revoking)
    ∧ (x.deadline = .guard ↔ x.state = .draining)
    ∧ (x.heldMode = none ↔ x.holders = [])
    ∧ (x.heldMode = some .exclusive → x.holders.length = 1)
    ∧ (x.state = .offline → x = Record.cleared)
    ∧ (x.retirePending = true → x.state = .held ∨ x.state = .revoking ∨ x.state = .draining)

/-- Every record's content agrees with its state. -/
abbrev State.RecordsWf (s : State) : Prop := ∀ r : Res, (s.record r).Wf

/-- The deadline list: one entry per owner and kind, in ascending order of ticks remaining, each
due 1 to 65535 ticks ahead (R72, R75, R76). -/
abbrev State.DeadlinesWf (s : State) : Prop :=
  (s.deadlines.map (·.id)).Nodup
    ∧ s.deadlines.Pairwise
        (fun d e => (d.remaining s.clock).toNat ≤ (e.remaining s.clock).toNat)
    ∧ ∀ d ∈ s.deadlines,
        1 ≤ (d.remaining s.clock).toNat ∧ (d.remaining s.clock).toNat ≤ 65535

/-- The resource of the entry at the index, if it is in use. -/
def State.waitsOn (s : State) (i : PoolIx) : Option Res := (s.entry i).map (·.resource)

/-- Each pool index in use belongs to exactly the queue of its resource, once (R46, R49). -/
abbrev State.PoolWf (s : State) : Prop :=
  (∀ r : Res, (s.queue r).Nodup)
    ∧ ∀ (r : Res) (i : PoolIx), i ∈ s.queue r ↔ s.waitsOn i = some r

/-- A client has at most one wait entry per resource (R49). -/
abbrev State.OneWaitEach (s : State) : Prop :=
  ∀ (c : Client) (i j : PoolIx),
    s.entryOf c i = true → s.entryOf c j = true → s.waitsOn i = s.waitsOn j → i = j

/-- A wait entry is of kind UPGRADE exactly when its client holds the resource (R47), stands at the
head of its queue (R49), and none waits on a REVOKING record (R89). -/
abbrev State.UpgradesWf (s : State) : Prop :=
  (∀ (r : Res) (c : Client), ∀ i ∈ s.queue r, s.entryOf c i = true →
      s.isUpgrade i = s.holds r c)
    ∧ (∀ r : Res, ∀ i ∈ (s.queue r).tail, s.isUpgrade i = false)
    ∧ ∀ r : Res, (s.record r).state = .revoking → ∀ i ∈ s.queue r, s.isUpgrade i = false

/-- A client that is not ATTACHED holds no lease, has no wait entry and has session TTL 0
(R105). -/
abbrev State.SessionsWf (s : State) : Prop :=
  ∀ c : Client, s.attached c = false →
    (s.session c).ttl = 0 ∧ (∀ r : Res, s.holds r c = false)
      ∧ ∀ i : PoolIx, s.entryOf c i = false

/-- What holds of the wait entries, the leases and the sessions together. -/
abbrev State.WaitersWf (s : State) : Prop :=
  s.PoolWf ∧ s.OneWaitEach ∧ s.UpgradesWf ∧ s.SessionsWf

/-- The grant rule has nothing to grant on the resource: the counter is exhausted, or the record's
state grants nothing, or the queue is empty, or its head is incompatible (R24, R25). -/
def State.settled (s : State) (r : Res) : Bool :=
  s.exhausted || !(s.record r).state.grants
    || match (s.queue r).head? with
       | none => true
       | some i =>
         match s.entry i with
         | some e => !(s.record r).compatible e
         | none => true

/-- An OFFLINE or retire-pending resource has an empty queue (R4), and every queue is as the grant
rule leaves it (R25). -/
abbrev State.QueuesWf (s : State) : Prop :=
  (∀ r : Res, (s.record r).state = .offline ∨ (s.record r).retirePending = true →
      s.queue r = [])
    ∧ ∀ r : Res, s.settled r = true

/-- The owner of a deadline is in the state for which it is armed (R78): the lease stands, the
entry waits, the client is ATTACHED with a TTL, the record's field names the kind. -/
def State.owns (s : State) : DeadlineId → Bool
  | .hold r c => s.holds r c
  | .wait i => (s.entry i).isSome
  | .session c => s.attached c && (s.session c).ttl != 0
  | .grace r => (s.record r).deadline == .grace
  | .guard r => (s.record r).deadline == .guard

/-- Every armed deadline has its owner, and the deadlines of watched sessions, revocations and
drains are armed (R2, R72, R78, TABLE 6-2). -/
abbrev State.OwnersWf (s : State) : Prop :=
  (∀ d ∈ s.deadlines, s.owns d.id = true)
    ∧ (∀ c : Client, s.owns (.session c) = true → s.armed (.session c) = true)
    ∧ ∀ r : Res, (s.owns (.grace r) = true → s.armed (.grace r) = true)
        ∧ (s.owns (.guard r) = true → s.armed (.guard r) = true)

/-- The token of the lease in the slot. -/
def State.tokenOf (s : State) (r : Res) (c : Client) : Option Token :=
  ((s.record r).lease c).map (·.token)

/-- Every token in force was issued, and no two slots carry the same one (R20). An exhausted
counter has issued every token but 0. -/
abbrev State.TokensWf (s : State) : Prop :=
  (∀ (r : Res) (c : Client), ∀ t ∈ s.tokenOf r c,
      t ≠ 0 ∧ (s.nextToken = 0 ∨ t < s.nextToken))
    ∧ ∀ (r r' : Res) (c c' : Client), ∀ t ∈ s.tokenOf r c,
        s.tokenOf r' c' = some t → r = r' ∧ c = c'

/-- The resource a notice is about. -/
def Notice.resource? : Notice → Option Res
  | .resource r _ _ => some r
  | .sessionLapsed _ => none
  | .sessionEvicted _ => none

/-- What a client's queue may hold in each port state (R124, TABLE 6-2). -/
def PortState.admits (st : PortState) (q : List Notice) : Bool :=
  match st with
  | .detached => q.isEmpty
  | .attached => q.all fun n => !n.ofSession
  | .lapsed => q.all Notice.ofSession && decide (q.length ≤ 1)

/-- At most one notice per resource in each queue, and the kinds its port state allows (R124). -/
abbrev State.NoticesWf (s : State) : Prop :=
  ∀ c : Client, ((s.noticeQueue c).queue.filterMap Notice.resource?).Nodup
    ∧ (s.session c).port.admits (s.noticeQueue c).queue = true

/-- The involvement set of each client holds exactly the resources it holds, waits on or has an
unread notice about (R118). -/
abbrev State.InvolvementWf (s : State) : Prop :=
  ∀ (c : Client) (r : Res), (s.session c).involves r = s.concerns r c

/-- The tally never exceeds 15 (R118). -/
abbrev State.TallyWf (s : State) : Prop := ∀ c : Client, (s.session c).tally ≤ 15

/-! Requests on the ports -/

/-- A row of the client catalogue: code (TABLE 11-3), parameter bytes (TABLE 9-1), the range check
of step 4 of R148, and the command. -/
structure ClientRow where
  code : Byte
  length : Nat
  inRange : List Byte → Bool
  command : Client → Byte → List Byte → Byte → Instr

/-- The thirteen client requests. -/
def clientRows : List ClientRow :=
  [ { code := 0x01, length := 0, inRange := fun _ => true, command := .status },
    { code := 0x02, length := 2, inRange := fun _ => true, command := .openSession },
    { code := 0x03, length := 0, inRange := fun _ => true, command := .closeSession },
    { code := 0x04, length := 0, inRange := fun _ => true, command := .keepalive },
    { code := 0x10, length := 6, inRange := fun v => decide ((v.getD 1 0).toNat ≤ 1),
      command := .claim },
    { code := 0x11, length := 3, inRange := fun _ => true, command := .renew },
    { code := 0x12, length := 1, inRange := fun _ => true, command := .release },
    { code := 0x13, length := 1, inRange := fun _ => true, command := .downgrade },
    { code := 0x14, length := 5, inRange := fun _ => true, command := .upgrade },
    { code := 0x15, length := 1, inRange := fun _ => true, command := .withdraw },
    { code := 0x16, length := 1, inRange := fun _ => true, command := .query },
    { code := 0x20, length := 0, inRange := fun _ => true, command := .fetch },
    { code := 0x21, length := 1, inRange := fun v => decide ((v.getD 0 0).toNat < 64),
      command := .setAttention } ]

/-- A row of the supervisor catalogue (TABLE 10-2, TABLE 11-3). -/
structure SupervisorRow where
  code : Byte
  length : Nat
  command : Byte → List Byte → Byte → Instr

/-- The eighteen supervisor requests. -/
def supervisorRows : List SupervisorRow :=
  [ { code := 0x40, length := 11, command := .define },
    { code := 0x41, length := 11, command := .amend },
    { code := 0x42, length := 1, command := .retire },
    { code := 0x43, length := 2, command := .inspectResource },
    { code := 0x44, length := 2, command := .inspectQueue },
    { code := 0x45, length := 1, command := .revoke },
    { code := 0x50, length := 5, command := .bindGate },
    { code := 0x51, length := 1, command := .unbindGate },
    { code := 0x52, length := 0, command := .readGates },
    { code := 0x58, length := 5, command := .setPolicy },
    { code := 0x59, length := 1, command := .evict },
    { code := 0x5A, length := 1, command := .inspectClient },
    { code := 0x60, length := 2, command := .setTimebase },
    { code := 0x61, length := 1, command := .listDeadlines },
    { code := 0x68, length := 0, command := .readEvents },
    { code := 0x69, length := 2, command := .ackEvents },
    { code := 0x6A, length := 2, command := .setEventMask },
    { code := 0x7F, length := 0, command := .clearAll } ]

/-- The bytes of an intact request frame (TABLE 11-1). -/
def frameBytes (code tag : Byte) (params : List Byte) : List Byte :=
  code :: tag :: countByte params.length :: params ++ [goodCrc code tag params]

/-- No transaction of the port is half way through its request. -/
def State.between (s : State) (p : Client) : Bool :=
  match (s.cpi p).framing with
  | .receiving _ => false
  | .idle => true
  | .responding _ _ => true
  | .done => true

/-- A request with this tag is executed, not replayed (R154). -/
abbrev State.fresh (s : State) (p : Client) (tag : Byte) : Prop :=
  tag = 0 ∨ tag ≠ (s.cpi p).lastTag

/-- A request of client `p` with this tag reaches its owner once its frame is intact and fits: a new
transaction, a fresh tag, an enabled port (R106, R148, R154). -/
abbrev State.reaches (s : State) (p : Client) (tag : Byte) : Prop :=
  s.between p = true ∧ s.fresh p tag ∧ s.enabled p = true

/-- The state with an executed request's answer on the port and in its replay record (R150,
R155). -/
def State.afterReply (s : State) (p : Client) (code tag : Byte) (params : List Byte)
    (st : Status) (payload : List Byte) : State :=
  { s with
    cpis := Vec.set s.cpis p
      { framing := .responding { status := st, tag, replay := false, payload } 0
        lastTag := tag
        lastRequest := frameBytes code tag params
        lastResponse := some { status := st, tag, replay := false, payload }
        linkErrors := (s.cpi p).linkErrors } }

/-- The state with a link error counted and LINKERRn raised (R157), the port in the framing
state. -/
def State.afterLinkError (s : State) (p : Client) (f : CpiFraming) : State :=
  { s with
    cpis := Vec.set s.cpis p
      { s.cpi p with
        framing := f
        linkErrors := if (s.cpi p).linkErrors = 255 then 255 else (s.cpi p).linkErrors + 1 }
    supervisor :=
      { s.supervisor with events := s.supervisor.events ||| BitVec.twoPow 11 (4 + p.val) } }

/-- The state with a frame-level refusal on the port (R149). -/
def State.afterRefusal (s : State) (p : Client) (st : Status) (tag : Byte) : State :=
  s.afterLinkError p (.responding { status := st, tag, replay := false, payload := [] } 0)

/-- The state with a supervisor request's response stored and the rest of its write discarded
(R163). -/
def State.afterStored (s : State) (tag : Byte) (st : Status) (payload : List Byte) : State :=
  { s with
    supervisor :=
      { s.supervisor with
        framing := .discarding
        stored := { status := st, tag, replay := false, payload } } }

/-- The list after arming `id` for `n` ticks at the clock value; 0 ticks disarm (R73 to R75). -/
def armedList (now : Clock) (id : DeadlineId) (n : Ticks) (l : List Deadline) : List Deadline :=
  if n = 0 then withoutDeadline id l
  else insertDeadline now { id, due := now + n.setWidth 32 } (withoutDeadline id l)

/-- The supervisor port after a grant took the token: TOKENS_OUT is raised at the last one (R21). -/
def Supervisor.afterToken (x : Supervisor) (t : Token) : Supervisor :=
  if t = BitVec.allOnes 48 then { x with events := x.events ||| BitVec.twoPow 11 10 } else x

/-- The source of bit `k` joins the event set (R167). -/
def State.withEvent (s : State) (k : Nat) : State :=
  { s with supervisor := { s.supervisor with events := s.supervisor.events ||| BitVec.twoPow 11 k } }

/-- The state without wait entry `i` of the resource (R50). -/
def State.withoutEntry (s : State) (r : Res) (i : PoolIx) : State :=
  { s with
    queues := Vec.set s.queues r ((s.queue r).filter fun j => j != i)
    entries := Vec.set s.entries i none
    deadlines := withoutDeadline (.wait i) s.deadlines }

/-- Client `c` is told of the expiry of its lease with the token, and its HOLD deadline is gone; the
slot is still to be emptied (R41). -/
def State.leaseExpiring (s : State) (r : Res) (c : Client) (t : Token) : State :=
  { s with
    deadlines := withoutDeadline (.hold r c) s.deadlines
    sessions := Vec.set s.sessions c ((s.session c).setInvolves r true)
    notices := Vec.set s.notices c
      { s.noticeQueue c with
        queue := enqueueNotice r (.leaseExpired t) (s.noticeQueue c).queue } }

/-- What R34 does once no holder of the resource is left: a revocation's GRACE deadline goes; then
DRAINING with its GUARD deadline and the queue kept, or OFFLINE and cleared, or IDLE with the grant
rule in the same event. -/
def State.afterLastHolder (s : State) (r : Res) : State :=
  let x := s.record r
  let left :=
    if x.state = .revoking then withoutDeadline (.grace r) s.deadlines else s.deadlines
  if x.attrs.guard ≠ 0 then
    { s with
      records := Vec.set s.records r
        { x with
          state := .draining, heldMode := none, slots := Vector.replicate 4 none
          deadline := .guard }
      deadlines := armedList s.clock (.guard r) x.attrs.guard left }
  else if x.retirePending then
    { s with records := Vec.set s.records r Record.cleared, deadlines := left }
  else
    { s with
      records := Vec.set s.records r
        { x with
          state := .idle, heldMode := none, slots := Vector.replicate 4 none
          deadline := .absent }
      deadlines := left }.grantRule r

/-- The deliveries of a tick event from `s`, whose lease clock stands at the new value, to `t` (R77):
they end when no entry is left or the head is due later; a head that is due is taken off the list and
delivered whole before the list that it leaves is looked at. -/
inductive State.Delivers : State → State → Prop where
  | ended {s : State} (later : ∀ d ∈ s.deadlines.head?, d.due ≠ s.clock) : State.Delivers s s
  | taken {s t : State} (d : Deadline) (rest : List Deadline) (head : s.deadlines = d :: rest)
      (due : d.due = s.clock)
      (goesOn : State.Delivers (({ s with deadlines := rest } : State).deliver d.id) t) :
      State.Delivers s t

/-! Frames -/

/-- Untouched by anything that happens to leases: the lease clock, the timebase, the reference
count, the gate bindings, the commands and wire events that wait, the attention masks, the supervisor
port's address and mask; and no source has left the event set. -/
abbrev State.sameOutside (s t : State) : Prop :=
  t.clock = s.clock ∧ t.timebase = s.timebase ∧ t.refCount = s.refCount ∧ t.gates = s.gates
    ∧ t.pending = s.pending ∧ t.bus = s.bus
    ∧ (∀ c : Client, (t.noticeQueue c).mask = (s.noticeQueue c).mask)
    ∧ t.supervisor.address = s.supervisor.address ∧ t.supervisor.mask = s.supervisor.mask
    ∧ s.supervisor.events &&& t.supervisor.events = s.supervisor.events

/-- The client's port state, session number, TTL and policy are unchanged. -/
abbrev State.sameSession (s t : State) (c : Client) : Prop :=
  (t.session c).port = (s.session c).port ∧ (t.session c).number = (s.session c).number
    ∧ (t.session c).ttl = (s.session c).ttl ∧ (t.session c).policy = (s.session c).policy

/-- The deadline does not belong to the resource, its leases or its entries. -/
def State.awayFrom (s : State) (r : Res) (d : Deadline) : Bool :=
  match d.id with
  | .hold r' _ => r' != r
  | .wait i => s.waitsOn i != some r
  | .session _ => true
  | .grace r' => r' != r
  | .guard r' => r' != r

/-- Untouched by what happens on one resource: the records, queues and entries of the others, their
deadlines, their notices, their places in the involvement sets, and every session. -/
abbrev State.sameElsewhere (s t : State) (r : Res) : Prop :=
  (∀ r' : Res, r' ≠ r → t.record r' = s.record r' ∧ t.queue r' = s.queue r')
    ∧ (∀ i : PoolIx, s.waitsOn i ≠ some r → t.entry i = s.entry i)
    ∧ t.deadlines.filter (s.awayFrom r) = s.deadlines.filter (s.awayFrom r)
    ∧ (∀ c : Client, (t.noticeQueue c).queue.filter (fun n => !n.about r)
          = (s.noticeQueue c).queue.filter (fun n => !n.about r))
    ∧ (∀ (c : Client) (r' : Res), r' ≠ r →
          (t.session c).involves r' = (s.session c).involves r')
    ∧ ∀ c : Client, s.sameSession t c

/-- Nothing of the client's session is left: no TTL, no lease, no wait entry, no place in the
involvement set, no SESSION deadline, no HOLD deadline of a lease it had in `s`. -/
abbrev State.sessionGone (s t : State) (c : Client) : Prop :=
  (t.session c).ttl = 0 ∧ t.armed (.session c) = false
    ∧ (∀ i : PoolIx, t.entryOf c i = false)
    ∧ ∀ r : Res, t.holds r c = false ∧ (t.session c).involves r = false
        ∧ (s.holds r c = true → t.armed (.hold r c) = false)

/-- The other clients keep their sessions, their SESSION deadlines and every lease they had. -/
abbrev State.othersKeep (s t : State) (c : Client) : Prop :=
  ∀ c' : Client, c' ≠ c →
    s.sameSession t c' ∧ t.deadlineOf (.session c') = s.deadlineOf (.session c')
      ∧ ∀ r : Res, s.holds r c' = true → t.holds r c' = true

/-- The resource is as it was: its record, its queue with its entries, every deadline that belongs
to it, and, for the clients other than `c`, their notices about it and its place in their involvement
sets. -/
abbrev State.sameResource (s t : State) (c : Client) (r : Res) : Prop :=
  t.record r = s.record r ∧ t.queue r = s.queue r
    ∧ (∀ i ∈ s.queue r, t.entry i = s.entry i ∧ t.deadlineOf (.wait i) = s.deadlineOf (.wait i))
    ∧ (∀ c' : Client, t.deadlineOf (.hold r c') = s.deadlineOf (.hold r c'))
    ∧ t.deadlineOf (.grace r) = s.deadlineOf (.grace r)
    ∧ t.deadlineOf (.guard r) = s.deadlineOf (.guard r)
    ∧ ∀ c' : Client, c' ≠ c →
        (t.noticeQueue c').queue.filter (Notice.about r)
            = (s.noticeQueue c').queue.filter (Notice.about r)
          ∧ (t.session c').involves r = (s.session c').involves r

/-- Every resource that the client neither holds nor waits on is as it was. -/
abbrev State.othersUntouched (s t : State) (c : Client) : Prop :=
  ∀ r : Res, s.holds r c = false → s.waits r c = false → s.sameResource t c r

end Sys2Proof.Machine
end

