-- ==== Sys2Proof/Certificates/Slice0/Obligations.lean ====
section
/-! DEFINITION. The statements for the provers. Each docstring names the rules it rests on; a clause
that is the model's own choice names its log entry. -/

open Sys2Proof Sys2Proof.Machine

/-! The step, reset and the encodings -/

/-- A step runs the command at the front of the queue on the state with the queue's rest; on an
empty queue it is the event that waits on the wires (the model's choice, entry 3), else one period of
the reference clock (the model's choice, entry 5; R70). -/
def Obligations.StepTakesTheFrontCommand : Prop :=
  ∀ (s : State) (c : Instr) (rest : List Instr) (e : BusEvent) (later : List BusEvent),
    (s.pending = c :: rest → step s = exec c { s with pending := rest })
      ∧ (s.pending = [] → s.bus = e :: later → step s = .next ({ s with bus := later }.busEvent e))
      ∧ (s.pending = [] → s.bus = [] → s.timebase.source = .external → step s = .next s)
      ∧ (s.pending = [] → s.bus = [] → s.timebase.source = .internal →
          s.refCount + 1 < 160 * 10 ^ s.timebase.period.val →
          step s = .next { s with refCount := s.refCount + 1 })
      ∧ (s.pending = [] → s.bus = [] → s.timebase.source = .internal →
          160 * 10 ^ s.timebase.period.val ≤ s.refCount + 1 →
          step s = exec (.tickEvent .internal) s)

/-- The reset state meets every invariant that the steps keep. -/
def Obligations.ResetMeetsEveryInvariant : Prop :=
  State.reset.RecordsWf ∧ State.reset.DeadlinesWf ∧ State.reset.WaitersWf ∧ State.reset.QueuesWf
    ∧ State.reset.OwnersWf ∧ State.reset.TokensWf ∧ State.reset.NoticesWf
    ∧ State.reset.InvolvementWf ∧ State.reset.TallyWf

/-- DEVICE RESET leaves every block at its reset values and every line at rest (R16, R20, R68, R84,
R121, R135, R144, R160, R161, R165, R167, R170); the commands and the wire events that wait stay
(entry 7). -/
def Obligations.DeviceResetRestoresEveryBlock : Prop :=
  ∀ (s : State) (straps : BitVec 2) (csLow : BitVec 4),
    ∃ t, exec (.deviceReset straps csLow) s = .next t
      ∧ t =
        { records := Vector.replicate 64
            { state := .offline, heldMode := none, slots := Vector.replicate 4 none
              attrs :=
                { modes := .none, mask := 0, maxHold := 0, defaultHold := 0, guard := 0, grace := 0 }
              retirePending := false, deadline := .absent }
          nextToken := 1
          entries := Vector.replicate 32 none
          queues := Vector.replicate 64 []
          clock := 0
          timebase := { source := .internal, period := 2 }
          refCount := 0
          deadlines := []
          sessions := Vector.replicate 4
            { port := .detached, number := 0, ttl := 0, involved := Vector.replicate 64 false
              policy := { enabled := true, maxTtl := 65535, unwatched := false } }
          notices := Vector.replicate 4 { queue := [], mask := 0b111111 }
          gates := Vector.replicate 16 none
          cpis := Vector.ofFn fun p =>
            { framing := if csLow.getLsbD p.val then .done else .idle
              lastTag := 0, lastRequest := [], lastResponse := none, linkErrors := 0 }
          supervisor :=
            { address := 0x6C + straps.setWidth 7, framing := .idle
              stored := { status := .empty, tag := 0, replay := false, payload := [] }
              events := 0, mask := 0 }
          pending := s.pending
          bus := s.bus }
      ∧ (∀ c : Client, t.attention c = false) ∧ t.supervisorAttention = false
      ∧ ∀ g : Gate, t.gateLevel g = false

/-- The CRC of both ports: its start, its step for one covered byte, the bytes it covers in requests
and in responses, the check at the CRC byte of either port, and the check value (R174). -/
def Obligations.CrcOfEveryFrame : Prop :=
  ∀ (bytes : List Byte) (b : Byte) (f : Frame) (r : Response) (s : State) (p : Client),
    crcOf [] = 0xFF
      ∧ crcOf (bytes ++ [b])
          = (List.range 8).foldl
              (fun reg _ => if reg.getLsbD 7 then (reg <<< 1) ^^^ 0x9B else reg <<< 1)
              (crcOf bytes ^^^ b)
      ∧ f.bytes = (f.code :: f.tag :: countByte f.params.length :: f.params) ++ [f.crc]
      ∧ (f.crc ≠ crcOf (f.code :: f.tag :: countByte f.params.length :: f.params) →
          s.takeFrame p (clientRequestOf f.code) f = s.refuseFrame p .badFrame f.tag
            ∧ s.takeSupervisorFrame (supervisorRequestOf f.code) f
                = State.storeDecision (s.answer .badFrame) f.tag)
      ∧ r.bytes
          = (r.status.code :: r.tag :: (if r.replay then 1 else 0)
              :: countByte r.payload.length :: r.payload)
            ++ [crcOf (r.status.code :: r.tag :: (if r.replay then 1 else 0)
              :: countByte r.payload.length :: r.payload)]
      ∧ crcOf [0x01, 0x00, 0x00] = 0x98

/-- The effective hold, case by case, and the HOLD deadline it gives a lease granted from the queue:
from the hold stored in the entry and the attributes in force at the grant (R22). -/
def Obligations.EffectiveHoldCases : Prop :=
  ∀ (a : Attributes) (h : Ticks) (s : State) (r : Res) (i : PoolIx) (e : WaitEntry),
    (a.maxHold = 0 → h ≠ 0 → effectiveHold a h = h)
      ∧ (a.maxHold = 0 → h = 0 → effectiveHold a h = a.defaultHold)
      ∧ (a.maxHold ≠ 0 → h ≠ 0 → h ≤ a.maxHold → effectiveHold a h = h)
      ∧ (a.maxHold ≠ 0 → h ≠ 0 → a.maxHold < h → effectiveHold a h = a.maxHold)
      ∧ (a.maxHold ≠ 0 → h = 0 → a.defaultHold = 0 → effectiveHold a h = a.maxHold)
      ∧ (a.maxHold ≠ 0 → h = 0 → a.defaultHold ≠ 0 → a.defaultHold ≤ a.maxHold →
          effectiveHold a h = a.defaultHold)
      ∧ (a.maxHold ≠ 0 → h = 0 → a.maxHold < a.defaultHold → effectiveHold a h = a.maxHold)
      ∧ (effectiveHold (s.record r).attrs e.hold = 0 →
          (s.grantEntry r i e).deadlineOf (.hold r e.client) = none)
      ∧ (effectiveHold (s.record r).attrs e.hold ≠ 0 →
          (s.grantEntry r i e).deadlineOf (.hold r e.client)
            = some { id := .hold r e.client
                     due := s.clock + (effectiveHold (s.record r).attrs e.hold).setWidth 32 })

/-- The level of every gate (R137, TABLE 8-2), and gates that cover EXCLUSIVE only of two clients on
one resource are never both active while the records agree with their states (R139). -/
def Obligations.GateLevels : Prop :=
  ∀ (s : State) (g g' : Gate),
    (s.gate g = none → s.gateLevel g = false ∧ s.gateActive g = false)
      ∧ (∀ b ∈ s.gate g,
          (s.gateActive g = true ↔
            ((s.record b.resource).state = .held ∨ (s.record b.resource).state = .revoking)
              ∧ s.holds b.resource b.client = true
              ∧ (b.cover = .anyMode ∨ (s.record b.resource).heldMode = some .exclusive))
            ∧ (b.polarity = .highActive → s.gateLevel g = s.gateActive g)
            ∧ (b.polarity = .lowActive → s.gateLevel g = !s.gateActive g))
      ∧ (s.RecordsWf → ∀ b ∈ s.gate g, ∀ b' ∈ s.gate g', b.resource = b'.resource →
          b.client ≠ b'.client → b.cover = .exclusiveOnly → b'.cover = .exclusiveOnly →
          ¬(s.gateActive g = true ∧ s.gateActive g' = true))

/-! The client ports -/

/-- Every frame-level refusal of a client port: the status, one link error, LINKERRn, and nothing
else; the frame checks in their order (R147, R148, R149, R157). -/
def Obligations.ClientFrameRefusals : Prop :=
  ∀ (s : State) (p : Client) (code tag len : Byte) (params : List Byte) (crc : Byte),
    s.between p = true →
      (∀ row ∈ clientRows, params.length ≤ 16 →
        (crc ≠ goodCrc row.code tag params →
          exec (row.command p tag params crc) s = .next (s.afterRefusal p .badFrame tag))
        ∧ (crc = goodCrc row.code tag params →
            params.length ≠ row.length ∨ row.inRange params = false →
            exec (row.command p tag params crc) s = .next (s.afterRefusal p .badParams tag)))
      ∧ ((clientRows.all fun row => row.code != code) = true → params.length ≤ 16 →
          (crc ≠ goodCrc code tag params →
            exec (.clientUnknownRequest p code tag params crc) s
              = .next (s.afterRefusal p .badFrame tag))
          ∧ (crc = goodCrc code tag params →
              exec (.clientUnknownRequest p code tag params crc) s
                = .next (s.afterRefusal p .unknownRequest tag)))
      ∧ (17 ≤ len.toNat →
          exec (.clientBadLength p code tag len) s = .next (s.afterRefusal p .badLength tag))

/-- The replay guard: an identical frame with the last tag resends the stored response with REPLAY
set, another frame with that tag is answered TAG REUSED, neither with any other effect; any other
request is executed and stored (R154, R155). -/
def Obligations.ReplayGuardDecides : Prop :=
  ∀ (s : State) (p : Client) (tag : Byte) (params : List Byte),
    s.between p = true →
    ∀ row ∈ clientRows, params.length = row.length → row.inRange params = true →
      (tag ≠ 0 → tag = (s.cpi p).lastTag → ∀ old ∈ (s.cpi p).lastResponse,
        ((s.cpi p).lastRequest = frameBytes row.code tag params →
          exec (row.command p tag params (goodCrc row.code tag params)) s
            = .next { s with
                cpis := Vec.set s.cpis p
                  { s.cpi p with framing := .responding { old with replay := true } 0 } })
        ∧ ((s.cpi p).lastRequest ≠ frameBytes row.code tag params →
            exec (row.command p tag params (goodCrc row.code tag params)) s
              = .next { s with
                  cpis := Vec.set s.cpis p
                    { s.cpi p with
                      framing := .responding
                        { status := .tagReused, tag, replay := false, payload := [] } 0 } }))
      ∧ (s.fresh p tag →
          ∃ t, exec (row.command p tag params (goodCrc row.code tag params)) s = .next t
            ∧ (t.cpi p).lastTag = tag
            ∧ (t.cpi p).lastRequest = frameBytes row.code tag params
            ∧ (t.cpi p).linkErrors = (s.cpi p).linkErrors
            ∧ ((t.cpi p).lastResponse.any fun q =>
                decide ((t.cpi p).framing = .responding q 0) && decide (q.tag = tag)
                  && !q.replay) = true)

/-- On a disabled port every request but STATUS and FETCH is answered PORT DISABLED, which is
stored, and nothing else changes (R106). -/
def Obligations.DisabledPortRefusesTheOthers : Prop :=
  ∀ (s : State) (p : Client) (tag : Byte) (params : List Byte),
    s.between p = true → s.fresh p tag → s.enabled p = false →
    ∀ row ∈ clientRows, row.code ≠ 0x01 → row.code ≠ 0x20 →
      params.length = row.length → row.inRange params = true →
      exec (row.command p tag params (goodCrc row.code tag params)) s
        = .next (s.afterReply p row.code tag params .portDisabled [])

/-- The first two checks of the client requests: NO SESSION for a client that is not ATTACHED, with
no other effect; NO RESOURCE for a number of 64 or more, after the implicit keepalive (R29, R35, R36,
R37, R39, R53, R58, R107, R110, R112, R133). -/
def Obligations.SessionAndNumberChecks : Prop :=
  ∀ (s : State) (p : Client) (tag : Byte) (params : List Byte),
    s.reaches p tag →
    ∀ row ∈ clientRows, params.length = row.length → row.inRange params = true →
      (row.code ≠ 0x01 → row.code ≠ 0x02 → row.code ≠ 0x20 → s.attached p = false →
        exec (row.command p tag params (goodCrc row.code tag params)) s
          = .next (s.afterReply p row.code tag params .noSession []))
      ∧ (0x10 ≤ row.code.toNat → row.code.toNat ≤ 0x16 → s.attached p = true →
          64 ≤ (params.getD 0 0).toNat →
          exec (row.command p tag params (goodCrc row.code tag params)) s
            = .next ((s.keepSession p).afterReply p row.code tag params .noResource []))

/-- STATUS reports the port, the session, the counts, the lease clock and the device code, also on a
disabled port, and changes nothing but the SESSION deadline it renews (R158). -/
def Obligations.StatusReports : Prop :=
  ∀ (s : State) (p : Client) (tag : Byte),
    s.between p = true → s.fresh p tag →
    exec (.status p tag [] (goodCrc 0x01 tag [])) s
      = .next
        ((s.keepSession p).afterReply p 0x01 tag [] .ok
          (([ match (s.session p).port with
              | .detached => 0
              | .attached => 1
              | .lapsed => 2,
              if s.enabled p then 1 else 0 ] : List Byte)
            ++ bytesOf 2 (s.session p).number
            ++ [ BitVec.ofNat 8 (s.session p).tally,
                 BitVec.ofNat 8 (s.noticeQueue p).queue.length,
                 (s.cpi p).linkErrors ]
            ++ bytesOf 4 s.clock ++ [0x4A, 0x64]))

/-- OPEN: the checks of TABLE 6-3, and the session it opens: the number advanced, the TTL, the
SESSION deadline, the attention mask (R108, R109). -/
def Obligations.OpenStartsASession : Prop :=
  ∀ (s : State) (p : Client) (tag t1 t0 : Byte),
    s.reaches p tag →
    match firstFailing
        [ (s.attached p == false, .alreadyOpen),
          (!((s.session p).port == .lapsed && (s.noticeQueue p).queue.any Notice.ofSession),
            .lapseUnread),
          (decide (half t1 t0 ≤ (s.session p).policy.maxTtl), .ttlRefused),
          (half t1 t0 != 0 || (s.session p).policy.unwatched, .ttlRefused) ] with
    | some st =>
      exec (.openSession p tag [t1, t0] (goodCrc 0x02 tag [t1, t0])) s
        = .next ((s.keepSession p).afterReply p 0x02 tag [t1, t0] st [])
    | none =>
      exec (.openSession p tag [t1, t0] (goodCrc 0x02 tag [t1, t0])) s
        = .next
          ({ s with
              sessions := Vec.set s.sessions p
                { s.session p with
                  port := .attached
                  number :=
                    if (s.session p).number = 65535 then 1 else (s.session p).number + 1
                  ttl := half t1 t0 }
              deadlines :=
                if half t1 t0 = 0 then s.deadlines
                else armedList s.clock (.session p) (half t1 t0) s.deadlines
              notices := Vec.set s.notices p { s.noticeQueue p with mask := 0b111111 } }.afterReply
            p 0x02 tag [t1, t0] .ok
            (bytesOf 2
              (if (s.session p).number = 65535 then (1 : BitVec 16)
               else (s.session p).number + 1)))

/-- CLOSE of an ATTACHED client: the answer counts its leases, nothing of the session is left, the
port is DETACHED with its number and an empty queue, the others keep what they hold, and a resource
the client had nothing on is untouched (R111, R112, R127). -/
def Obligations.CloseEndsTheSession : Prop :=
  ∀ (s : State) (p : Client) (tag : Byte),
    s.RecordsWf → s.WaitersWf → s.InvolvementWf → s.reaches p tag → s.attached p = true →
    ∃ t, exec (.closeSession p tag [] (goodCrc 0x03 tag [])) s = .next t
      ∧ s.sessionGone t p
      ∧ (t.session p).port = .detached ∧ (t.session p).number = (s.session p).number
      ∧ (t.session p).policy = (s.session p).policy
      ∧ (t.noticeQueue p).queue = [] ∧ t.attention p = false
      ∧ s.othersKeep t p ∧ s.othersUntouched t p ∧ s.sameOutside t
      ∧ t.supervisor.stored = s.supervisor.stored
      ∧ t.supervisor.framing = s.supervisor.framing
      ∧ t.cpis = (s.afterReply p 0x03 tag [] .ok
          [BitVec.ofNat 8 ((List.finRange 64).countP fun r => s.holds r p)]).cpis

/-- KEEPALIVE answers the TTL, and the keepalive that every admitted request of an ATTACHED client
brings re-arms its SESSION deadline for a non-zero TTL and does nothing else (R107, R110). -/
def Obligations.KeepaliveRenewsTheSession : Prop :=
  ∀ (s : State) (p : Client) (tag : Byte),
    (s.attached p = true → s.keepSession p
      = { s with
          deadlines :=
            if (s.session p).ttl = 0 then s.deadlines
            else armedList s.clock (.session p) (s.session p).ttl s.deadlines })
      ∧ (s.attached p = false → s.keepSession p = s)
      ∧ (s.reaches p tag → s.attached p = true →
          exec (.keepalive p tag [] (goodCrc 0x04 tag [])) s
            = .next ((s.keepSession p).afterReply p 0x04 tag [] .ok
                (bytesOf 2 (s.session p).ttl)))

/-! Claims and leases -/

/-- A CLAIM that passes its checks and is grantable now: the slot, the token, granted-at, the held
mode, the HOLD deadline, the tally and TOKENS OUT; the answer is GRANTED with the token and the
effective hold (R20, R21, R23, R29, R30). -/
def Obligations.ClaimGrantedAtOnce : Prop :=
  ∀ (s : State) (p : Client) (tag : Byte) (r : Res) (m : Mode) (h1 h0 w1 w0 : Byte),
    s.reaches p tag → s.attached p = true →
    (s.record r).retirePending = false → (s.record r).attrs.mask.getLsbD p.val = true →
    (match (s.record r).attrs.modes with
      | .none => false
      | .exclusiveOnly => m == .exclusive
      | .sharedOnly => m == .shared
      | .either => true) = true →
    s.holds r p = false → s.waits r p = false →
    (s.session p).involves r = true ∨ (s.session p).tally < 15 →
    s.nextToken ≠ 0 →
    (s.record r).state = .idle
      ∨ ((s.record r).state = .held ∧ (s.record r).heldMode = some .shared ∧ m = .shared
          ∧ s.queue r = []) →
    exec (.claim p tag [numberByte r, m.claimCode, h1, h0, w1, w0]
        (goodCrc 0x10 tag [numberByte r, m.claimCode, h1, h0, w1, w0])) s
      = .next
        ({ s.keepSession p with
            records := Vec.set s.records r
              { s.record r with
                state := .held
                heldMode := some m
                slots := Vec.set (s.record r).slots p
                  (some { token := s.nextToken, grantedAt := s.clock }) }
            nextToken := s.nextToken + 1
            deadlines := armedList s.clock (.hold r p)
              (effectiveHold (s.record r).attrs (half h1 h0)) (s.keepSession p).deadlines
            sessions := Vec.set s.sessions p ((s.session p).setInvolves r true)
            supervisor := s.supervisor.afterToken s.nextToken }.afterReply
          p 0x10 tag [numberByte r, m.claimCode, h1, h0, w1, w0] .granted
          (bytesOf 6 s.nextToken
            ++ bytesOf 2 (effectiveHold (s.record r).attrs (half h1 h0))))

/-- A CLAIM that passes its checks and is not grantable now: BUSY with wait 0; POOL FULL, raised as
an event, without a free index; else an entry at the lowest free index and the tail of the queue,
QUEUED with its position, and no grant (R31, R32, R48, R51, R65). -/
def Obligations.ClaimWaitsOrIsRefused : Prop :=
  ∀ (s : State) (p : Client) (tag : Byte) (r : Res) (m : Mode) (h1 h0 w1 w0 : Byte),
    s.RecordsWf → s.PoolWf → s.QueuesWf → s.reaches p tag → s.attached p = true →
    firstFailing (s.claimChecks p r m) = none →
    (s.record r).state ≠ .idle →
    ¬((s.record r).state = .held ∧ (s.record r).heldMode = some .shared ∧ m = .shared
        ∧ s.queue r = []) →
    (half w1 w0 = 0 →
      exec (.claim p tag [numberByte r, m.claimCode, h1, h0, w1, w0]
          (goodCrc 0x10 tag [numberByte r, m.claimCode, h1, h0, w1, w0])) s
        = .next ((s.keepSession p).afterReply p 0x10 tag
            [numberByte r, m.claimCode, h1, h0, w1, w0] .busy []))
    ∧ (half w1 w0 ≠ 0 → (∀ i : PoolIx, s.entry i ≠ none) →
        exec (.claim p tag [numberByte r, m.claimCode, h1, h0, w1, w0]
            (goodCrc 0x10 tag [numberByte r, m.claimCode, h1, h0, w1, w0])) s
          = .next
            ({ s.keepSession p with
                supervisor :=
                  { s.supervisor with
                    events := s.supervisor.events ||| BitVec.twoPow 11 8 } }.afterReply
              p 0x10 tag [numberByte r, m.claimCode, h1, h0, w1, w0] .poolFull []))
    ∧ (half w1 w0 ≠ 0 → ∀ i : PoolIx, s.entry i = none → (∀ j < i, s.entry j ≠ none) →
        exec (.claim p tag [numberByte r, m.claimCode, h1, h0, w1, w0]
            (goodCrc 0x10 tag [numberByte r, m.claimCode, h1, h0, w1, w0])) s
          = .next
            ({ s.keepSession p with
                entries := Vec.set s.entries i
                  (some
                    { resource := r, client := p
                      kind := match m with
                        | .shared => .shared
                        | .exclusive => .exclusive
                      hold := half h1 h0 })
                queues := Vec.set s.queues r (s.queue r ++ [i])
                deadlines :=
                  if half w1 w0 = 65535 then (s.keepSession p).deadlines
                  else armedList s.clock (.wait i) (half w1 w0) (s.keepSession p).deadlines
                sessions := Vec.set s.sessions p ((s.session p).setInvolves r true) }.afterReply
              p 0x10 tag [numberByte r, m.claimCode, h1, h0, w1, w0] .queued
              [BitVec.ofNat 8 ((s.queue r).length + 1)]))

/-- A CLAIM that fails a check is answered with the status of the first that fails, in the order of
TABLE 2-3, and changes nothing but the SESSION deadline it renews (R29). -/
def Obligations.ClaimRefusedInOrder : Prop :=
  ∀ (s : State) (p : Client) (tag : Byte) (r : Res) (m : Mode) (h1 h0 w1 w0 : Byte) (st : Status),
    s.reaches p tag → s.attached p = true →
    firstFailing
      [ ((s.record r).state != .offline, .offline),
        (!(s.record r).retirePending, .retiring),
        ((s.record r).attrs.mask.getLsbD p.val, .notPermitted),
        (match (s.record r).attrs.modes with
          | .none => false
          | .exclusiveOnly => m == .exclusive
          | .sharedOnly => m == .shared
          | .either => true, .modeRefused),
        (!s.holds r p, .alreadyHeld),
        (!s.waits r p, .alreadyWaiting),
        ((s.session p).involves r || decide ((s.session p).tally < 15), .quota),
        (s.nextToken != 0, .exhausted) ] = some st →
    exec (.claim p tag [numberByte r, m.claimCode, h1, h0, w1, w0]
        (goodCrc 0x10 tag [numberByte r, m.claimCode, h1, h0, w1, w0])) s
      = .next ((s.keepSession p).afterReply p 0x10 tag
          [numberByte r, m.claimCode, h1, h0, w1, w0] st [])

/-- RENEW: NOT HELD, then REVOKING; else the HOLD deadline re-armed from the effective hold, or
disarmed when it is 0, and nothing else (R36). -/
def Obligations.RenewRearmsTheHold : Prop :=
  ∀ (s : State) (p : Client) (tag : Byte) (r : Res) (h1 h0 : Byte),
    s.reaches p tag → s.attached p = true →
    match firstFailing
        [ (s.holds r p, .notHeld), ((s.record r).state != .revoking, .revoking) ] with
    | some st =>
      exec (.renew p tag [numberByte r, h1, h0] (goodCrc 0x11 tag [numberByte r, h1, h0])) s
        = .next ((s.keepSession p).afterReply p 0x11 tag [numberByte r, h1, h0] st [])
    | none =>
      exec (.renew p tag [numberByte r, h1, h0] (goodCrc 0x11 tag [numberByte r, h1, h0])) s
        = .next
          ({ s.keepSession p with
              deadlines := armedList s.clock (.hold r p)
                (effectiveHold (s.record r).attrs (half h1 h0))
                (s.keepSession p).deadlines }.afterReply
            p 0x11 tag [numberByte r, h1, h0] .ok
            (bytesOf 2 (effectiveHold (s.record r).attrs (half h1 h0))))

/-- RELEASE: NOT HELD without a lease; else the client's UPGRADE entry and then its lease end with
no notice to it, the other holders keep theirs, and the answer tells whether an UPGRADE entry went;
with holders remaining and no UPGRADE entry the slot is emptied, its HOLD deadline disarmed, and the
grant rule runs in HELD alone (R33, R35; the answer's bits 1 to 7 are 0 by entry 16). -/
def Obligations.ReleaseEndsTheLease : Prop :=
  ∀ (s : State) (p : Client) (tag : Byte) (r : Res),
    s.RecordsWf → s.WaitersWf → s.reaches p tag → s.attached p = true →
    (s.holds r p = false →
      exec (.release p tag [numberByte r] (goodCrc 0x12 tag [numberByte r])) s
        = .next ((s.keepSession p).afterReply p 0x12 tag [numberByte r] .notHeld []))
    ∧ (s.holds r p = true →
        ∃ t, exec (.release p tag [numberByte r] (goodCrc 0x12 tag [numberByte r])) s = .next t
          ∧ t.holds r p = false ∧ t.waits r p = false ∧ t.armed (.hold r p) = false
          ∧ (∀ c : Client, c ≠ p → s.holds r c = true → t.holds r c = true)
          ∧ t.noticeQueue p = s.noticeQueue p
          ∧ (s.keepSession p).sameElsewhere t r ∧ s.sameOutside t
          ∧ t.supervisor.stored = s.supervisor.stored
          ∧ t.supervisor.framing = s.supervisor.framing
          ∧ t.cpis = (s.afterReply p 0x12 tag [numberByte r] .ok
              [if s.waits r p then 1 else 0]).cpis)
    ∧ (s.holds r p = true → s.waits r p = false → (s.record r).holders ≠ [p] →
        exec (.release p tag [numberByte r] (goodCrc 0x12 tag [numberByte r])) s
          = .next
            ((if (s.record r).state = .held then
                State.grantRule
                  { s.keepSession p with
                    records := Vec.set s.records r
                      { s.record r with slots := Vec.set (s.record r).slots p none }
                    deadlines := withoutDeadline (.hold r p) (s.keepSession p).deadlines
                    sessions := Vec.set s.sessions p
                      ((s.session p).setInvolves r (s.unread r p)) } r
              else
                { s.keepSession p with
                  records := Vec.set s.records r
                    { s.record r with slots := Vec.set (s.record r).slots p none }
                  deadlines := withoutDeadline (.hold r p) (s.keepSession p).deadlines
                  sessions := Vec.set s.sessions p
                    ((s.session p).setInvolves r (s.unread r p)) }).afterReply
              p 0x12 tag [numberByte r] .ok [0]))

/-- The last holder leaves by RELEASE. With no one waiting: DRAINING with its GUARD deadline, or
OFFLINE and cleared, or IDLE; the GRACE deadline of a revocation goes and no event is raised. With
waiters, its own UPGRADE entry removed first: the queue is kept under DRAINING, or handed over by the
grant rule from IDLE in the same event (R33, R34, R35, R50, R90, R94; the answer's bits 1 to 7 are 0
by entry 16). -/
def Obligations.LastReleaseDrainsOrFrees : Prop :=
  ∀ (s : State) (p : Client) (tag : Byte) (r : Res),
    s.RecordsWf → s.reaches p tag → s.attached p = true →
    (s.record r).holders = [p] →
    (s.queue r = [] →
      ∃ t, exec (.release p tag [numberByte r] (goodCrc 0x12 tag [numberByte r])) s = .next t
        ∧ t.supervisor = s.supervisor ∧ t.nextToken = s.nextToken
        ∧ t.notices = s.notices ∧ t.entries = s.entries ∧ t.queues = s.queues
        ∧ t.armed (.hold r p) = false
        ∧ ((s.record r).state = .revoking → t.armed (.grace r) = false)
        ∧ ((s.record r).attrs.guard ≠ 0 →
            t.records = Vec.set s.records r
              { s.record r with
                state := .draining, heldMode := none, slots := Vector.replicate 4 none
                deadline := .guard }
            ∧ t.deadlineOf (.guard r)
              = some { id := .guard r, due := s.clock + (s.record r).attrs.guard.setWidth 32 })
        ∧ ((s.record r).attrs.guard = 0 → (s.record r).retirePending = true →
            t.records = Vec.set s.records r Record.cleared)
        ∧ ((s.record r).attrs.guard = 0 → (s.record r).retirePending = false →
            t.records = Vec.set s.records r
              { s.record r with
                state := .idle, heldMode := none, slots := Vector.replicate 4 none
                deadline := .absent }))
    ∧ (s.waits r p = false →
        exec (.release p tag [numberByte r] (goodCrc 0x12 tag [numberByte r])) s
          = .next
            ((State.afterLastHolder
                { s.keepSession p with
                  deadlines := withoutDeadline (.hold r p) (s.keepSession p).deadlines
                  sessions := Vec.set s.sessions p
                    ((s.session p).setInvolves r (s.unread r p)) } r).afterReply
              p 0x12 tag [numberByte r] .ok [0]))
    ∧ (s.WaitersWf → ∀ i ∈ s.queue r, s.entryOf p i = true →
        exec (.release p tag [numberByte r] (goodCrc 0x12 tag [numberByte r])) s
          = .next
            ((State.afterLastHolder
                ({ s.keepSession p with
                    deadlines := withoutDeadline (.hold r p) (s.keepSession p).deadlines
                    sessions := Vec.set s.sessions p
                      ((s.session p).setInvolves r (s.unread r p)) }.withoutEntry r i) r).afterReply
              p 0x12 tag [numberByte r] .ok [1]))

/-- DOWNGRADE: the checks in their order; else the held mode becomes SHARED, the lease is kept, and
the grant rule runs (R37, R38). -/
def Obligations.DowngradeKeepsTheLease : Prop :=
  ∀ (s : State) (p : Client) (tag : Byte) (r : Res),
    s.reaches p tag → s.attached p = true →
    match firstFailing
        [ (s.holds r p, .notHeld),
          ((s.record r).heldMode == some .exclusive, .alreadyHeld),
          ((s.record r).attrs.modes != .exclusiveOnly, .modeRefused),
          ((s.record r).state != .revoking, .revoking) ] with
    | some st =>
      exec (.downgrade p tag [numberByte r] (goodCrc 0x13 tag [numberByte r])) s
        = .next ((s.keepSession p).afterReply p 0x13 tag [numberByte r] st [])
    | none =>
      exec (.downgrade p tag [numberByte r] (goodCrc 0x13 tag [numberByte r])) s
        = .next
          (({ s.keepSession p with
                records := Vec.set s.records r { s.record r with heldMode := some .shared }
                sessions := Vec.set s.sessions p
                  ((s.session p).setInvolves r true) }.grantRule r).afterReply
            p 0x13 tag [numberByte r] .ok [])

/-- An UPGRADE of the sole holder that passes its checks converts the lease in place: EXCLUSIVE, the
next token, a new granted-at, the HOLD deadline from the effective hold; GRANTED with both (R53,
R54). -/
def Obligations.UpgradeOfTheSoleHolder : Prop :=
  ∀ (s : State) (p : Client) (tag : Byte) (r : Res) (h1 h0 w1 w0 : Byte),
    s.reaches p tag → s.attached p = true → s.holds r p = true →
    (s.record r).heldMode ≠ some .exclusive → (s.record r).attrs.modes ≠ .sharedOnly →
    (s.record r).retirePending = false → (s.record r).state ≠ .revoking →
    (∀ i ∈ s.queue r, s.isUpgrade i = false) → s.nextToken ≠ 0 →
    (s.record r).holders = [p] →
    exec (.upgrade p tag [numberByte r, h1, h0, w1, w0]
        (goodCrc 0x14 tag [numberByte r, h1, h0, w1, w0])) s
      = .next
        ({ s.keepSession p with
            records := Vec.set s.records r
              { s.record r with
                state := .held
                heldMode := some .exclusive
                slots := Vec.set (s.record r).slots p
                  (some { token := s.nextToken, grantedAt := s.clock }) }
            nextToken := s.nextToken + 1
            deadlines := armedList s.clock (.hold r p)
              (effectiveHold (s.record r).attrs (half h1 h0)) (s.keepSession p).deadlines
            sessions := Vec.set s.sessions p ((s.session p).setInvolves r true)
            supervisor := s.supervisor.afterToken s.nextToken }.afterReply
          p 0x14 tag [numberByte r, h1, h0, w1, w0] .granted
          (bytesOf 6 s.nextToken
            ++ bytesOf 2 (effectiveHold (s.record r).attrs (half h1 h0))))

/-- An UPGRADE beside other holders that passes its checks: BUSY with wait 0; POOL FULL, raised as an
event, without a free index; else an UPGRADE entry at the lowest free index and the head of the
queue, QUEUED at position 1, the lease kept and nothing granted (R53, R55, R65). -/
def Obligations.UpgradeWaitsOrIsRefused : Prop :=
  ∀ (s : State) (p : Client) (tag : Byte) (r : Res) (h1 h0 w1 w0 : Byte),
    s.reaches p tag → s.attached p = true → s.holds r p = true →
    (s.record r).heldMode ≠ some .exclusive → (s.record r).attrs.modes ≠ .sharedOnly →
    (s.record r).retirePending = false → (s.record r).state ≠ .revoking →
    (∀ i ∈ s.queue r, s.isUpgrade i = false) → s.nextToken ≠ 0 →
    (s.record r).holders ≠ [p] →
    (half w1 w0 = 0 →
      exec (.upgrade p tag [numberByte r, h1, h0, w1, w0]
          (goodCrc 0x14 tag [numberByte r, h1, h0, w1, w0])) s
        = .next ((s.keepSession p).afterReply p 0x14 tag
            [numberByte r, h1, h0, w1, w0] .busy []))
    ∧ (half w1 w0 ≠ 0 → (∀ i : PoolIx, s.entry i ≠ none) →
        exec (.upgrade p tag [numberByte r, h1, h0, w1, w0]
            (goodCrc 0x14 tag [numberByte r, h1, h0, w1, w0])) s
          = .next
            ({ s.keepSession p with
                supervisor :=
                  { s.supervisor with
                    events := s.supervisor.events ||| BitVec.twoPow 11 8 } }.afterReply
              p 0x14 tag [numberByte r, h1, h0, w1, w0] .poolFull []))
    ∧ (half w1 w0 ≠ 0 → ∀ i : PoolIx, s.entry i = none → (∀ j < i, s.entry j ≠ none) →
        exec (.upgrade p tag [numberByte r, h1, h0, w1, w0]
            (goodCrc 0x14 tag [numberByte r, h1, h0, w1, w0])) s
          = .next
            ({ s.keepSession p with
                entries := Vec.set s.entries i
                  (some { resource := r, client := p, kind := .upgrade, hold := half h1 h0 })
                queues := Vec.set s.queues r (i :: s.queue r)
                deadlines :=
                  if half w1 w0 = 65535 then (s.keepSession p).deadlines
                  else armedList s.clock (.wait i) (half w1 w0) (s.keepSession p).deadlines
                sessions := Vec.set s.sessions p ((s.session p).setInvolves r true) }.afterReply
              p 0x14 tag [numberByte r, h1, h0, w1, w0] .queued [1]))

/-- An UPGRADE that fails a check is answered with the status of the first that fails, in the order
of TABLE 3-3, and changes nothing but the SESSION deadline it renews (R52, R53). -/
def Obligations.UpgradeRefusedInOrder : Prop :=
  ∀ (s : State) (p : Client) (tag : Byte) (r : Res) (h1 h0 w1 w0 : Byte) (st : Status),
    s.reaches p tag → s.attached p = true →
    firstFailing
      [ (s.holds r p, .notHeld),
        ((s.record r).heldMode != some .exclusive, .alreadyHeld),
        ((s.record r).attrs.modes != .sharedOnly, .modeRefused),
        (!(s.record r).retirePending, .retiring),
        ((s.record r).state != .revoking, .revoking),
        (!(s.queue r).any fun i => s.isUpgrade i && s.entryOf p i, .alreadyWaiting),
        (!(s.queue r).any fun i => s.isUpgrade i && !s.entryOf p i, .upgradeConflict),
        (s.nextToken != 0, .exhausted) ] = some st →
    exec (.upgrade p tag [numberByte r, h1, h0, w1, w0]
        (goodCrc 0x14 tag [numberByte r, h1, h0, w1, w0])) s
      = .next ((s.keepSession p).afterReply p 0x14 tag [numberByte r, h1, h0, w1, w0] st [])

/-- WITHDRAW: NOT WAITING without an entry; else the entry leaves its queue, its WAIT deadline is
disarmed, its index freed, the tally follows, and the grant rule runs (R50, R58, R59). -/
def Obligations.WithdrawRemovesTheEntry : Prop :=
  ∀ (s : State) (p : Client) (tag : Byte) (r : Res) (i : PoolIx),
    s.PoolWf → s.OneWaitEach → s.reaches p tag → s.attached p = true →
    (s.waits r p = false →
      exec (.withdraw p tag [numberByte r] (goodCrc 0x15 tag [numberByte r])) s
        = .next ((s.keepSession p).afterReply p 0x15 tag [numberByte r] .notWaiting []))
    ∧ (i ∈ s.queue r → s.entryOf p i = true →
        exec (.withdraw p tag [numberByte r] (goodCrc 0x15 tag [numberByte r])) s
          = .next
            (({ s.keepSession p with
                  queues := Vec.set s.queues r ((s.queue r).filter fun j => j != i)
                  entries := Vec.set s.entries i none
                  deadlines := withoutDeadline (.wait i) (s.keepSession p).deadlines
                  sessions := Vec.set s.sessions p
                    ((s.session p).setInvolves r
                      (s.holds r p || s.unread r p)) }.grantRule r).afterReply
              p 0x15 tag [numberByte r] .ok []))

/-- QUERY: OFFLINE, then NOT PERMITTED; else the payload of R40 in the order of TABLE 11-5, and no
change but the SESSION deadline it renews (R13, R39, R40). -/
def Obligations.QueryReports : Prop :=
  ∀ (s : State) (p : Client) (tag : Byte) (r : Res),
    s.PoolWf → s.reaches p tag → s.attached p = true →
    match firstFailing
        [ ((s.record r).state != .offline, .offline),
          ((s.record r).attrs.mask.getLsbD p.val, .notPermitted) ] with
    | some st =>
      exec (.query p tag [numberByte r] (goodCrc 0x16 tag [numberByte r])) s
        = .next ((s.keepSession p).afterReply p 0x16 tag [numberByte r] st [])
    | none =>
      exec (.query p tag [numberByte r] (goodCrc 0x16 tag [numberByte r])) s
        = .next
          ((s.keepSession p).afterReply p 0x16 tag [numberByte r] .ok
            ([ match (s.record r).state with
               | .offline => 0
               | .idle => 1
               | .held => 2
               | .revoking => 3
               | .draining => 4,
               if (s.record r).state = .held ∨ (s.record r).state = .revoking then
                 match (s.record r).heldMode with
                 | none => 0
                 | some .shared => 1
                 | some .exclusive => 2
               else 0,
               BitVec.ofNat 8 ((List.finRange 4).countP fun c => s.holds r c),
               BitVec.ofNat 8 (s.queue r).length,
               if (s.record r).retirePending then 1 else 0,
               if s.holds r p then (if s.waits r p then 3 else 1)
               else (if s.waits r p then 2 else 0) ]
              ++ (match (s.record r).lease p with
                 | some l =>
                   bytesOf 6 l.token ++ bytesOf 4 l.grantedAt
                     ++ bytesOf 2 ((s.keepSession p).remaining (.hold r p))
                 | none => [0, 0, 0, 0, 0, 0, 0, 0, 0, 0, 0, 0])
              ++ (match (s.queue r).findIdx? (s.entryOf p) with
                 | some k =>
                   match (s.queue r)[k]? with
                   | some i =>
                     [ match (s.entry i).map (·.kind) with
                       | some .shared => 1
                       | some .exclusive => 2
                       | some .upgrade => 3
                       | none => 0,
                       BitVec.ofNat 8 (k + 1) ]
                       ++ bytesOf 2 ((s.keepSession p).remaining (.wait i))
                   | none => [0, 0, 0, 0]
                 | none => [0, 0, 0, 0])))

/-! Notices -/

/-- FETCH, also on a disabled port: EMPTY with count 0 and no change; else the head of the queue goes
out in the layout of TABLE 11-5 with the remaining count, and a resource notice takes its resource
out of the tally unless the client still holds or waits there (R129, R130). -/
def Obligations.FetchTakesTheHead : Prop :=
  ∀ (s : State) (p : Client) (tag : Byte),
    s.between p = true → s.fresh p tag →
    ((s.noticeQueue p).queue = [] →
      exec (.fetch p tag [] (goodCrc 0x20 tag [])) s
        = .next ((s.keepSession p).afterReply p 0x20 tag [] .empty [0]))
    ∧ (∀ n ∈ (s.noticeQueue p).queue.head?,
        exec (.fetch p tag [] (goodCrc 0x20 tag [])) s
          = .next
            ({ s.keepSession p with
                notices := Vec.set s.notices p
                  { s.noticeQueue p with queue := (s.noticeQueue p).queue.tail }
                sessions :=
                  match n with
                  | .resource r _ _ => Vec.set s.sessions p
                      ((s.session p).setInvolves r
                        (s.holds r p || s.waits r p
                          || (s.noticeQueue p).queue.tail.any (Notice.about r)))
                  | .sessionLapsed _ => s.sessions
                  | .sessionEvicted _ => s.sessions }.afterReply
              p 0x20 tag [] .ok
              (BitVec.ofNat 8 (s.noticeQueue p).queue.tail.length
                :: match n with
                   | .resource r (.granted t) k =>
                     [1, numberByte r] ++ bytesOf 6 t ++ [k, 0, 0]
                   | .resource r .claimTimedOut k => [2, numberByte r, 0, 0, 0, 0, 0, 0, k, 0, 0]
                   | .resource r .claimCancelled k => [3, numberByte r, 0, 0, 0, 0, 0, 0, k, 0, 0]
                   | .resource r (.leaseExpired t) k =>
                     [4, numberByte r] ++ bytesOf 6 t ++ [k, 0, 0]
                   | .resource r (.revokeWarning t) k =>
                     [5, numberByte r] ++ bytesOf 6 t ++ [k, 0, 0]
                   | .resource r (.leaseRevoked t) k =>
                     [6, numberByte r] ++ bytesOf 6 t ++ [k, 0, 0]
                   | .sessionLapsed v => [7, 0xFF, 0, 0, 0, 0, 0, 0, 0] ++ bytesOf 2 v
                   | .sessionEvicted v => [8, 0xFF, 0, 0, 0, 0, 0, 0, 0] ++ bytesOf 2 v)))

/-- SET ATTENTION replaces the mask and nothing else; the line then is asserted exactly while a
notice of a kind in the mask, or a session notice, is queued (R133, R134). -/
def Obligations.SetAttentionMovesTheLine : Prop :=
  ∀ (s : State) (p : Client) (tag m : Byte),
    s.reaches p tag → s.attached p = true → m.toNat < 64 →
    ∃ t, exec (.setAttention p tag [m] (goodCrc 0x21 tag [m])) s = .next t
      ∧ t = { s.keepSession p with
          notices := Vec.set s.notices p
            { s.noticeQueue p with mask := m.setWidth 6 } }.afterReply p 0x21 tag [m] .ok []
      ∧ (t.attention p = true ↔ ∃ n ∈ (s.noticeQueue p).queue,
          match n with
          | .resource _ w _ => m.getLsbD (w.kind - 1) = true
          | .sessionLapsed _ => True
          | .sessionEvicted _ => True)

/-! Cut transactions -/

/-- CS rises: the part of a request that had arrived counts a link error if it was a byte or more,
a request already taken stands, and no other state is touched; a frame of any kind that finds a
transaction in progress acts as after such a rise (R145, R151, R152, R157; that a new transaction
ends the one in progress is entry 2). -/
def Obligations.CutTransactionEndsIt : Prop :=
  ∀ (s : State) (p : Client) (arrived : List Byte) (code tag len : Byte) (params : List Byte)
      (crc : Byte),
    ((s.cpi p).framing = .idle → receive arrived = .short →
      exec (.cutTransaction p arrived) s
        = .next (if arrived = [] then s else s.afterLinkError p .idle))
    ∧ (∀ before, (s.cpi p).framing = .receiving before → receive (before ++ arrived) = .short →
        exec (.cutTransaction p arrived) s
          = .next
            (if before ++ arrived = [] then
              { s with cpis := Vec.set s.cpis p { s.cpi p with framing := .idle } }
             else s.afterLinkError p .idle))
    ∧ ((s.cpi p).framing = .done ∨ (∃ r sent, (s.cpi p).framing = .responding r sent) →
        exec (.cutTransaction p arrived) s
          = .next { s with cpis := Vec.set s.cpis p { s.cpi p with framing := .idle } })
    ∧ ((∀ before, (s.cpi p).framing = .receiving before → receive before = .short) →
        ∃ t, exec (.cutTransaction p []) s = .next t
          ∧ (∀ row ∈ clientRows,
              exec (row.command p tag params crc) s = exec (row.command p tag params crc) t)
          ∧ exec (.clientUnknownRequest p code tag params crc) s
              = exec (.clientUnknownRequest p code tag params crc) t
          ∧ exec (.clientBadLength p code tag len) s = exec (.clientBadLength p code tag len) t)

/-! The supervisor's requests on resources -/

/-- DEFINE: the checks in their order, with the validation of R5; else the six attributes, IDLE, and
nothing else (R5, R6, R7). -/
def Obligations.DefineWritesTheRecord : Prop :=
  ∀ (s : State) (tag r m k h1 h0 d1 d0 u1 u0 c1 c0 : Byte),
    match firstFailing
        [ (decide (r.toNat < 64), .noResource),
          (decide ((m = 1 ∨ m = 2 ∨ m = 3) ∧ k ≠ 0 ∧ k.toNat < 16
              ∧ ¬(half d1 d0 ≠ 0 ∧ half h1 h0 ≠ 0 ∧ half h1 h0 < half d1 d0)), .badParams),
          ((s.record (Fin.ofNat 64 r.toNat)).state == .offline, .alreadyDefined) ] with
    | some st =>
      exec (.define tag [r, m, k, h1, h0, d1, d0, u1, u0, c1, c0]
          (goodCrc 0x40 tag [r, m, k, h1, h0, d1, d0, u1, u0, c1, c0])) s
        = .next (s.afterStored tag st [])
    | none =>
      exec (.define tag [r, m, k, h1, h0, d1, d0, u1, u0, c1, c0]
          (goodCrc 0x40 tag [r, m, k, h1, h0, d1, d0, u1, u0, c1, c0])) s
        = .next
          ({ s with
              records := Vec.set s.records (Fin.ofNat 64 r.toNat)
                { state := .idle, heldMode := none, slots := Vector.replicate 4 none
                  attrs :=
                    { modes := if m = 1 then .exclusiveOnly else if m = 2 then .sharedOnly
                        else .either
                      mask := k.setWidth 4, maxHold := half h1 h0, defaultHold := half d1 d0
                      guard := half u1 u0, grace := half c1 c0 }
                  retirePending := false, deadline := .absent } }.afterStored tag .ok [])

/-- AMEND: the checks in their order, with the validation of R5 and the exclusions of TABLE 1-7; else
the six attributes are replaced and nothing else changes (R5, R8, R9, R10). -/
def Obligations.AmendReplacesTheAttributes : Prop :=
  ∀ (s : State) (tag r m k h1 h0 d1 d0 u1 u0 c1 c0 : Byte),
    match firstFailing
        [ (decide (r.toNat < 64), .noResource),
          (decide ((m = 1 ∨ m = 2 ∨ m = 3) ∧ k ≠ 0 ∧ k.toNat < 16
              ∧ ¬(half d1 d0 ≠ 0 ∧ half h1 h0 ≠ 0 ∧ half h1 h0 < half d1 d0)), .badParams),
          ((s.record (Fin.ofNat 64 r.toNat)).state != .offline, .offline),
          (!(s.record (Fin.ofNat 64 r.toNat)).retirePending, .retiring),
          (decide
            ((∀ c : Client, s.holds (Fin.ofNat 64 r.toNat) c = true →
                k.getLsbD c.val = true
                  ∧ ¬((s.record (Fin.ofNat 64 r.toNat)).heldMode = some .exclusive ∧ m = 2)
                  ∧ ¬((s.record (Fin.ofNat 64 r.toNat)).heldMode = some .shared ∧ m = 1))
              ∧ ∀ i ∈ s.queue (Fin.ofNat 64 r.toNat), ∀ e ∈ s.entry i,
                k.getLsbD e.client.val = true
                  ∧ ¬((e.kind = .exclusive ∨ e.kind = .upgrade) ∧ m = 2)
                  ∧ ¬(e.kind = .shared ∧ m = 1)), .inUse) ] with
    | some st =>
      exec (.amend tag [r, m, k, h1, h0, d1, d0, u1, u0, c1, c0]
          (goodCrc 0x41 tag [r, m, k, h1, h0, d1, d0, u1, u0, c1, c0])) s
        = .next (s.afterStored tag st [])
    | none =>
      exec (.amend tag [r, m, k, h1, h0, d1, d0, u1, u0, c1, c0]
          (goodCrc 0x41 tag [r, m, k, h1, h0, d1, d0, u1, u0, c1, c0])) s
        = .next
          ({ s with
              records := Vec.set s.records (Fin.ofNat 64 r.toNat)
                { s.record (Fin.ofNat 64 r.toNat) with
                  attrs :=
                    { modes := if m = 1 then .exclusiveOnly else if m = 2 then .sharedOnly
                        else .either
                      mask := k.setWidth 4, maxHold := half h1 h0, defaultHold := half d1 d0
                      guard := half u1 u0, grace := half c1 c0 } } }.afterStored tag .ok [])

/-- RETIRE: the checks in their order; an IDLE record goes to OFFLINE, any other keeps its holders
and its deadline under the retire-pending mark; either way every waiter is cancelled with
CLAIM CANCELLED (R97, R98; bits 1 to 7 of the answer's first byte are 0 by entry 16). -/
def Obligations.RetireCancelsEveryWaiter : Prop :=
  ∀ (s : State) (tag n : Byte) (r : Res),
    s.RecordsWf → s.WaitersWf →
    (64 ≤ n.toNat →
      exec (.retire tag [n] (goodCrc 0x42 tag [n])) s = .next (s.afterStored tag .noResource []))
    ∧ ((s.record r).state = .offline →
        exec (.retire tag [numberByte r] (goodCrc 0x42 tag [numberByte r])) s
          = .next (s.afterStored tag .offline []))
    ∧ ((s.record r).state ≠ .offline → (s.record r).retirePending = true →
        exec (.retire tag [numberByte r] (goodCrc 0x42 tag [numberByte r])) s
          = .next (s.afterStored tag .retiring []))
    ∧ ((s.record r).state ≠ .offline → (s.record r).retirePending = false →
        ∃ t, exec (.retire tag [numberByte r] (goodCrc 0x42 tag [numberByte r])) s = .next t
          ∧ t.record r
            = (if (s.record r).state = .idle then Record.cleared
               else { s.record r with retirePending := true })
          ∧ t.queue r = []
          ∧ (∀ i ∈ s.queue r, t.entry i = none ∧ t.armed (.wait i) = false)
          ∧ (∀ c : Client, (t.noticeQueue c).queue
              = if s.waits r c then enqueueNotice r .claimCancelled (s.noticeQueue c).queue
                else (s.noticeQueue c).queue)
          ∧ (∀ c : Client, t.deadlineOf (.hold r c) = s.deadlineOf (.hold r c))
          ∧ t.deadlineOf (.grace r) = s.deadlineOf (.grace r)
          ∧ t.deadlineOf (.guard r) = s.deadlineOf (.guard r)
          ∧ s.sameElsewhere t r ∧ s.sameOutside t ∧ t.nextToken = s.nextToken
          ∧ t.cpis = s.cpis
          ∧ t.supervisor = (s.afterStored tag .ok
              [if (s.record r).state = .idle then 0 else 1,
               BitVec.ofNat 8 (s.queue r).length]).supervisor)

/-- INSPECT RESOURCE: NO RESOURCE, then BAD PARAMS for a view that is neither; else the RECORD or the
HOLDERS view in the layout of TABLE 11-5, and no state changes but the stored response (R12 to R15;
bits 4 to 7 of the client mask's byte are 0 by entry 16). -/
def Obligations.InspectResourceReports : Prop :=
  ∀ (s : State) (tag n v : Byte) (r : Res),
    (64 ≤ n.toNat →
      exec (.inspectResource tag [n, v] (goodCrc 0x43 tag [n, v])) s
        = .next (s.afterStored tag .noResource []))
    ∧ (2 ≤ v.toNat →
        exec (.inspectResource tag [numberByte r, v] (goodCrc 0x43 tag [numberByte r, v])) s
          = .next (s.afterStored tag .badParams []))
    ∧ exec (.inspectResource tag [numberByte r, 0] (goodCrc 0x43 tag [numberByte r, 0])) s
        = .next
          (s.afterStored tag .ok
            ([ match (s.record r).state with
               | .offline => 0
               | .idle => 1
               | .held => 2
               | .revoking => 3
               | .draining => 4,
               if (s.record r).state = .held ∨ (s.record r).state = .revoking then
                 match (s.record r).heldMode with
                 | none => 0
                 | some .shared => 1
                 | some .exclusive => 2
               else 0,
               if (s.record r).retirePending then 1 else 0,
               match (s.record r).attrs.modes with
               | .none => 0
               | .exclusiveOnly => 1
               | .sharedOnly => 2
               | .either => 3,
               BitVec.ofNat 8 (s.record r).attrs.mask.toNat ]
              ++ bytesOf 2 (s.record r).attrs.maxHold
              ++ bytesOf 2 (s.record r).attrs.defaultHold
              ++ bytesOf 2 (s.record r).attrs.guard ++ bytesOf 2 (s.record r).attrs.grace
              ++ [ BitVec.ofNat 8 ((List.finRange 4).countP fun c => s.holds r c),
                   BitVec.ofNat 8 (s.queue r).length,
                   match (s.record r).deadline with
                   | .absent => 0
                   | .grace => 4
                   | .guard => 5 ]
              ++ bytesOf 2
                  (match (s.record r).deadline with
                   | .absent => (0 : Ticks)
                   | .grace => s.remaining (.grace r)
                   | .guard => s.remaining (.guard r))
              ++ bytesOf 4 s.clock ++ bytesOf 6 s.nextToken))
    ∧ exec (.inspectResource tag [numberByte r, 1] (goodCrc 0x43 tag [numberByte r, 1])) s
        = .next
          (s.afterStored tag .ok
            ((List.finRange 4).flatMap fun c =>
              match (s.record r).lease c with
              | some l =>
                bytesOf 6 l.token ++ bytesOf 4 l.grantedAt
                  ++ bytesOf 2 (s.remaining (.hold r c))
              | none => [0, 0, 0, 0, 0, 0, 0, 0, 0, 0, 0, 0]))

/-- INSPECT QUEUE, INSPECT CLIENT, LIST DEADLINES and READ GATES: their refusals, their payloads in
the layout of TABLE 11-5, and no state changes but the stored response (R66, R67, R82, R83, R120,
R143; the bits of READ GATES, INSPECT QUEUE and INSPECT CLIENT that TABLE 11-5 does not define are 0
by entry 16). -/
def Obligations.InspectionsChangeNothing : Prop :=
  ∀ (s : State) (tag n start : Byte) (r : Res) (c : Client),
    (64 ≤ n.toNat →
      exec (.inspectQueue tag [n, start] (goodCrc 0x44 tag [n, start])) s
        = .next (s.afterStored tag .noResource []))
    ∧ (32 ≤ start.toNat →
        exec (.inspectQueue tag [numberByte r, start] (goodCrc 0x44 tag [numberByte r, start])) s
          = .next (s.afterStored tag .badParams []))
    ∧ (start.toNat < 32 → (∀ i ∈ s.queue r, s.entry i ≠ none) →
        exec (.inspectQueue tag [numberByte r, start] (goodCrc 0x44 tag [numberByte r, start])) s
          = .next
            (s.afterStored tag .ok
              ([ BitVec.ofNat 8 (s.queue r).length,
                 BitVec.ofNat 8 (min 7 ((s.queue r).length - start.toNat)) ]
                ++ (((s.queue r).drop start.toNat).take 7).flatMap fun i =>
                  (s.entry i).toList.flatMap fun e =>
                    [ BitVec.ofNat 8 i.val,
                      BitVec.ofNat 8
                        (e.client.val
                          + 16 * match e.kind with
                            | .shared => 1
                            | .exclusive => 2
                            | .upgrade => 3) ]
                      ++ bytesOf 2 e.hold ++ bytesOf 2 (s.remaining (.wait i)))))
    ∧ (4 ≤ n.toNat →
        exec (.inspectClient tag [n] (goodCrc 0x5A tag [n])) s
          = .next (s.afterStored tag .noClient []))
    ∧ exec (.inspectClient tag [numberByte c] (goodCrc 0x5A tag [numberByte c])) s
        = .next
          (s.afterStored tag .ok
            (([ match (s.session c).port with
                | .detached => 0
                | .attached => 1
                | .lapsed => 2,
                if (s.session c).policy.enabled then 1 else 0 ] : List Byte)
              ++ bytesOf 2 (s.session c).policy.maxTtl
              ++ [if (s.session c).policy.unwatched then 1 else 0]
              ++ bytesOf 2 (s.session c).number ++ bytesOf 2 (s.session c).ttl
              ++ bytesOf 2 (s.remaining (.session c))
              ++ [ BitVec.ofNat 8 (s.session c).tally,
                   BitVec.ofNat 8 (s.noticeQueue c).queue.length,
                   BitVec.ofNat 8 (s.noticeQueue c).mask.toNat, (s.cpi c).linkErrors ]
              ++ bytesOf 8 (BitVec.ofFnLE fun r : Res => s.holds r c)
              ++ bytesOf 8 (BitVec.ofFnLE fun r : Res => s.waits r c)))
    ∧ (160 ≤ start.toNat →
        exec (.listDeadlines tag [start] (goodCrc 0x61 tag [start])) s
          = .next (s.afterStored tag .badParams []))
    ∧ (start.toNat < 160 →
        exec (.listDeadlines tag [start] (goodCrc 0x61 tag [start])) s
          = .next
            (s.afterStored tag .ok
              (bytesOf 4 s.clock
                ++ [ match s.timebase.source with
                     | .internal => 0
                     | .external => 1,
                     BitVec.ofNat 8 s.timebase.period.val,
                     BitVec.ofNat 8 s.deadlines.length,
                     BitVec.ofNat 8 (min 6 (s.deadlines.length - start.toNat)) ]
                ++ ((s.deadlines.drop start.toNat).take 6).flatMap fun d =>
                  (match d.id with
                   | .hold r c => [1, BitVec.ofNat 8 r.val, BitVec.ofNat 8 c.val]
                   | .wait i => [2, BitVec.ofNat 8 i.val, 0]
                   | .session c => [3, BitVec.ofNat 8 c.val, 0]
                   | .grace r => [4, BitVec.ofNat 8 r.val, 0]
                   | .guard r => [5, BitVec.ofNat 8 r.val, 0])
                    ++ bytesOf 2 ((d.due - s.clock).setWidth 16))))
    ∧ exec (.readGates tag [] (goodCrc 0x52 tag [])) s
        = .next
          (s.afterStored tag .ok
            ((List.finRange 16).flatMap fun g =>
              match s.gate g with
              | none => [0, 0]
              | some b =>
                [ BitVec.ofNat 8
                    (b.client.val + (if b.cover = .anyMode then 16 else 0)
                      + (if b.polarity = .lowActive then 32 else 0)
                      + (if s.gateLevel g then 64 else 0) + 128),
                  BitVec.ofNat 8 b.resource.val ]))

/-- REVOKE: its checks in their order; with non-zero grace an UPGRADE head is cancelled, every holder
keeps its lease and is warned with its token, the record is REVOKING and the GRACE deadline runs
(R86, R87; the answer's bits 2 to 7 are 0 by entry 16). -/
def Obligations.RevokeWithGraceWarns : Prop :=
  ∀ (s : State) (tag n : Byte) (r : Res),
    s.RecordsWf → s.WaitersWf →
    (64 ≤ n.toNat →
      exec (.revoke tag [n] (goodCrc 0x45 tag [n])) s = .next (s.afterStored tag .noResource []))
    ∧ (∀ st, firstFailing
          [ ((s.record r).state != .offline, .offline),
            ((s.record r).state != .revoking, .alreadyRevoking),
            ((s.record r).state == .held, .notHeld) ] = some st →
        exec (.revoke tag [numberByte r] (goodCrc 0x45 tag [numberByte r])) s
          = .next (s.afterStored tag st []))
    ∧ ((s.record r).state = .held → (s.record r).attrs.grace ≠ 0 →
        ∃ t, exec (.revoke tag [numberByte r] (goodCrc 0x45 tag [numberByte r])) s = .next t
          ∧ t.record r = { s.record r with state := .revoking, deadline := .grace }
          ∧ t.deadlineOf (.grace r)
            = some { id := .grace r, due := s.clock + (s.record r).attrs.grace.setWidth 32 }
          ∧ (∀ c : Client, t.deadlineOf (.hold r c) = s.deadlineOf (.hold r c))
          ∧ t.queue r = (s.queue r).filter (fun i => !s.isUpgrade i)
          ∧ (∀ i ∈ s.queue r, s.isUpgrade i = true →
              t.entry i = none ∧ t.armed (.wait i) = false)
          ∧ (∀ c : Client, (t.noticeQueue c).queue
              = match (s.record r).lease c with
                | none => (s.noticeQueue c).queue
                | some l =>
                  enqueueNotice r (.revokeWarning l.token)
                    (if s.waits r c then
                      enqueueNotice r .claimCancelled (s.noticeQueue c).queue
                     else (s.noticeQueue c).queue))
          ∧ s.sameElsewhere t r ∧ s.sameOutside t ∧ t.nextToken = s.nextToken
          ∧ t.cpis = s.cpis
          ∧ t.supervisor = (s.afterStored tag .ok
              [ BitVec.ofNat 8 ((List.finRange 4).countP fun c => s.holds r c),
                if (s.queue r).any s.isUpgrade then 2 else 0 ]).supervisor)

/-- REVOKE with grace 0: an UPGRADE head is cancelled, every holder loses its lease with
LEASE REVOKED and its token, FORCED REVOKE is raised, and the record is not REVOKING; it goes on as
after any last holder, the grant rule among it (R34, R88, R101; the answer's bits 2 to 7 are 0 by
entry 16). -/
def Obligations.RevokeAtOnceRemovesHolders : Prop :=
  ∀ (s : State) (tag : Byte) (r : Res),
    s.RecordsWf → s.WaitersWf → (s.record r).state = .held → (s.record r).attrs.grace = 0 →
    ∃ t, exec (.revoke tag [numberByte r] (goodCrc 0x45 tag [numberByte r])) s = .next t
      ∧ t = ((State.afterLastHolder
          { s with
            entries := Vector.ofFn fun i =>
              if i ∈ s.queue r ∧ s.isUpgrade i = true then none else s.entry i
            queues := Vec.set s.queues r ((s.queue r).filter fun i => !s.isUpgrade i)
            deadlines := s.deadlines.filter fun d =>
              match d.id with
              | .hold r' c => !(r' == r && s.holds r c)
              | .wait i => !((s.queue r).contains i && s.isUpgrade i)
              | .session _ => true
              | .grace _ => true
              | .guard _ => true
            sessions := Vector.ofFn fun c =>
              if s.holds r c then (s.session c).setInvolves r true else s.session c
            notices := Vector.ofFn fun c =>
              match (s.record r).lease c with
              | none => s.noticeQueue c
              | some l =>
                { s.noticeQueue c with
                  queue := enqueueNotice r (.leaseRevoked l.token)
                    (if s.waits r c then
                      enqueueNotice r .claimCancelled (s.noticeQueue c).queue
                     else (s.noticeQueue c).queue) } } r).withEvent 9).afterStored tag .ok
          [ BitVec.ofNat 8 ((List.finRange 4).countP fun c => s.holds r c),
            if (s.queue r).any s.isUpgrade then 3 else 1 ]
      ∧ (t.record r).state ≠ .revoking
      ∧ ((s.record r).attrs.guard ≠ 0 → (t.record r).state = .draining)
      ∧ (∀ c : Client, ∀ l ∈ (s.record r).lease c,
          t.holds r c = false ∧ t.waits r c = false ∧ t.armed (.hold r c) = false
            ∧ (t.noticeQueue c).queue
              = enqueueNotice r (.leaseRevoked l.token)
                  (if s.waits r c then
                    enqueueNotice r .claimCancelled (s.noticeQueue c).queue
                   else (s.noticeQueue c).queue))
      ∧ t.supervisor.events.getLsbD 9 = true
      ∧ s.sameElsewhere t r ∧ s.sameOutside t
      ∧ t.cpis = s.cpis ∧ t.supervisor.framing = .discarding
      ∧ t.supervisor.stored
        = { status := .ok, tag, replay := false
            payload :=
              [ BitVec.ofNat 8 ((List.finRange 4).countP fun c => s.holds r c),
                if (s.queue r).any s.isUpgrade then 3 else 1 ] }

/-! The gates -/

/-- BIND GATE: the checks in their order; else the four fields are written, the pin takes the level
of R137 at once, and the answer tells the level and whether it is the active one (R140; the answer's
bits 2 to 7 are 0 by entry 16). -/
def Obligations.BindGateDrivesThePin : Prop :=
  ∀ (s : State) (tag g r c v o : Byte),
    match firstFailing
        [ (decide (g.toNat < 16), .noGate),
          (decide (r.toNat < 64), .noResource),
          (decide (c.toNat < 4), .noClient),
          (decide (v.toNat ≤ 1 ∧ o.toNat ≤ 1), .badParams),
          ((s.gate (Fin.ofNat 16 g.toNat)).isNone, .gateBound) ] with
    | some st =>
      exec (.bindGate tag [g, r, c, v, o] (goodCrc 0x50 tag [g, r, c, v, o])) s
        = .next (s.afterStored tag st [])
    | none =>
      ∃ t, exec (.bindGate tag [g, r, c, v, o] (goodCrc 0x50 tag [g, r, c, v, o])) s = .next t
        ∧ t = { s with
              gates := Vec.set s.gates (Fin.ofNat 16 g.toNat)
                (some
                  { resource := Fin.ofNat 64 r.toNat, client := Fin.ofNat 4 c.toNat
                    cover := if v = 0 then .exclusiveOnly else .anyMode
                    polarity := if o = 0 then .highActive else .lowActive }) }.afterStored tag .ok
            [BitVec.ofNat 8
              ((if t.gateLevel (Fin.ofNat 16 g.toNat) then 1 else 0)
                + if t.gateActive (Fin.ofNat 16 g.toNat) then 2 else 0)]
        ∧ (t.gateActive (Fin.ofNat 16 g.toNat) = true ↔
            ((s.record (Fin.ofNat 64 r.toNat)).state = .held
                ∨ (s.record (Fin.ofNat 64 r.toNat)).state = .revoking)
              ∧ s.holds (Fin.ofNat 64 r.toNat) (Fin.ofNat 4 c.toNat) = true
              ∧ (v ≠ 0 ∨ (s.record (Fin.ofNat 64 r.toNat)).heldMode = some .exclusive))
        ∧ (t.gateLevel (Fin.ofNat 16 g.toNat) = true ↔
            (t.gateActive (Fin.ofNat 16 g.toNat) = true ↔ o = 0))

/-- UNBIND GATE: NO GATE for a number of 16 or more; else the gate is unbound, its pin low, the other
gates as they were, and the answer tells whether it was bound (R141; the answer's bits 1 to 7 are 0 by
entry 16). -/
def Obligations.UnbindGateDropsThePin : Prop :=
  ∀ (s : State) (tag g : Byte),
    (16 ≤ g.toNat →
      exec (.unbindGate tag [g] (goodCrc 0x51 tag [g])) s = .next (s.afterStored tag .noGate []))
    ∧ (g.toNat < 16 →
        ∃ t, exec (.unbindGate tag [g] (goodCrc 0x51 tag [g])) s = .next t
          ∧ t = { s with
              gates := Vec.set s.gates (Fin.ofNat 16 g.toNat) none }.afterStored tag .ok
                [if s.gate (Fin.ofNat 16 g.toNat) = none then 0 else 1]
          ∧ t.gateLevel (Fin.ofNat 16 g.toNat) = false
          ∧ ∀ g' : Gate, g' ≠ Fin.ofNat 16 g.toNat → t.gateLevel g' = s.gateLevel g')

/-! The supervisor's requests on clients -/

/-- SET POLICY: the checks in their order, the codes of the two flags last; else the policy is
written, and an ATTACHED client whose port it disables is evicted in the same event with its flag
(R115, R116, R173; the answer's bits 1 to 7 are 0 by entry 16). -/
def Obligations.SetPolicyMayEvict : Prop :=
  ∀ (s : State) (tag c e t1 t0 u : Byte),
    match firstFailing
        [ (decide (c.toNat < 4), .noClient),
          (decide (half t1 t0 ≠ 0), .badParams),
          (decide (e.toNat ≤ 1 ∧ u.toNat ≤ 1), .badParams) ] with
    | some st =>
      exec (.setPolicy tag [c, e, t1, t0, u] (goodCrc 0x58 tag [c, e, t1, t0, u])) s
        = .next (s.afterStored tag st [])
    | none =>
      (e = 1 ∨ s.attached (Fin.ofNat 4 c.toNat) = false →
        exec (.setPolicy tag [c, e, t1, t0, u] (goodCrc 0x58 tag [c, e, t1, t0, u])) s
          = .next
            ({ s with
                sessions := Vec.set s.sessions (Fin.ofNat 4 c.toNat)
                  { s.session (Fin.ofNat 4 c.toNat) with
                    policy :=
                      { enabled := decide (e = 1), maxTtl := half t1 t0
                        unwatched := decide (u = 1) } } }.afterStored tag .ok [0]))
      ∧ (e = 0 → s.attached (Fin.ofNat 4 c.toNat) = true →
          s.RecordsWf → s.WaitersWf → s.InvolvementWf →
          ∃ t, exec (.setPolicy tag [c, e, t1, t0, u] (goodCrc 0x58 tag [c, e, t1, t0, u])) s
              = .next t
            ∧ s.sessionGone t (Fin.ofNat 4 c.toNat)
            ∧ (t.session (Fin.ofNat 4 c.toNat)).port = .lapsed
            ∧ (t.session (Fin.ofNat 4 c.toNat)).number
              = (s.session (Fin.ofNat 4 c.toNat)).number
            ∧ (t.session (Fin.ofNat 4 c.toNat)).policy
              = { enabled := false, maxTtl := half t1 t0, unwatched := decide (u = 1) }
            ∧ (t.noticeQueue (Fin.ofNat 4 c.toNat)).queue
              = [.sessionEvicted (s.session (Fin.ofNat 4 c.toNat)).number]
            ∧ s.othersKeep t (Fin.ofNat 4 c.toNat)
            ∧ s.othersUntouched t (Fin.ofNat 4 c.toNat) ∧ s.sameOutside t
            ∧ t.cpis = s.cpis ∧ t.supervisor.framing = .discarding
            ∧ t.supervisor.stored
              = { status := .ok, tag, replay := false, payload := [1] })

/-- EVICT: NO CLIENT, then NOT ATTACHED; else the session goes with nothing left, the port is LAPSED
with one SESSION EVICTED notice that asserts its line, no LAPSE is raised, and the answer counts the
leases (R111, R115, R128). -/
def Obligations.EvictEndsTheSession : Prop :=
  ∀ (s : State) (tag n : Byte) (c : Client),
    (4 ≤ n.toNat →
      exec (.evict tag [n] (goodCrc 0x59 tag [n])) s = .next (s.afterStored tag .noClient []))
    ∧ (s.attached c = false →
        exec (.evict tag [numberByte c] (goodCrc 0x59 tag [numberByte c])) s
          = .next (s.afterStored tag .notAttached []))
    ∧ (s.attached c = true → s.RecordsWf → s.WaitersWf → s.InvolvementWf →
        ∃ t, exec (.evict tag [numberByte c] (goodCrc 0x59 tag [numberByte c])) s = .next t
          ∧ s.sessionGone t c
          ∧ (t.session c).port = .lapsed ∧ (t.session c).number = (s.session c).number
          ∧ (t.session c).policy = (s.session c).policy
          ∧ (t.noticeQueue c).queue = [.sessionEvicted (s.session c).number]
          ∧ t.attention c = true
          ∧ (∀ k : Fin 10, t.supervisor.events.getLsbD k.val = s.supervisor.events.getLsbD k.val)
          ∧ s.othersKeep t c ∧ s.othersUntouched t c ∧ s.sameOutside t
          ∧ t.cpis = s.cpis ∧ t.supervisor.framing = .discarding
          ∧ t.supervisor.stored
            = { status := .ok, tag, replay := false
                payload := [BitVec.ofNat 8 ((List.finRange 64).countP fun r => s.holds r c)] })

/-! The timebase, the event set and CLEAR ALL -/

/-- SET TIMEBASE: BAD PARAMS for a code outside its table, then LIVE DEADLINES; else the setting is
replaced and the reference count starts again, and nothing else changes (R80). -/
def Obligations.SetTimebaseRestartsTheCount : Prop :=
  ∀ (s : State) (tag v k : Byte),
    match firstFailing
        [ (decide (v.toNat ≤ 1 ∧ k.toNat < 4), .badParams),
          (s.deadlines.isEmpty, .liveDeadlines) ] with
    | some st =>
      exec (.setTimebase tag [v, k] (goodCrc 0x60 tag [v, k])) s
        = .next (s.afterStored tag st [])
    | none =>
      exec (.setTimebase tag [v, k] (goodCrc 0x60 tag [v, k])) s
        = .next
          ({ s with
              timebase :=
                { source := if v = 0 then .internal else .external
                  period := Fin.ofNat 4 k.toNat }
              refCount := 0 }.afterStored tag .ok [])

/-- READ EVENTS reports the set and the mask; ACK EVENTS takes the named sources out and reports what
remains; SET EVENT MASK replaces the mask; a bit above the eleven is BAD PARAMS; SATTN is asserted
exactly while set and mask have a source in common (R168, R169, R170; bits 11 to 15 of a set in a
response are 0 by entry 16). -/
def Obligations.EventSetRequests : Prop :=
  ∀ (s : State) (tag e1 e0 : Byte),
    exec (.readEvents tag [] (goodCrc 0x68 tag [])) s
        = .next
          (s.afterStored tag .ok
            (bytesOf 2 (s.supervisor.events.setWidth 16)
              ++ bytesOf 2 (s.supervisor.mask.setWidth 16)))
    ∧ (2048 ≤ (half e1 e0).toNat →
        exec (.ackEvents tag [e1, e0] (goodCrc 0x69 tag [e1, e0])) s
            = .next (s.afterStored tag .badParams [])
          ∧ exec (.setEventMask tag [e1, e0] (goodCrc 0x6A tag [e1, e0])) s
            = .next (s.afterStored tag .badParams []))
    ∧ ((half e1 e0).toNat < 2048 →
        exec (.ackEvents tag [e1, e0] (goodCrc 0x69 tag [e1, e0])) s
            = .next
              ({ s with
                  supervisor :=
                    { s.supervisor with
                      events := s.supervisor.events
                        &&& ~~~((half e1 e0).setWidth 11) } }.afterStored tag .ok
                (bytesOf 2
                  ((s.supervisor.events &&& ~~~((half e1 e0).setWidth 11)).setWidth 16)))
          ∧ exec (.setEventMask tag [e1, e0] (goodCrc 0x6A tag [e1, e0])) s
            = .next
              ({ s with
                  supervisor :=
                    { s.supervisor with mask := (half e1 e0).setWidth 11 } }.afterStored
                tag .ok []))
    ∧ (s.supervisorAttention = true ↔
        ∃ k : Fin 11, s.supervisor.events.getLsbD k.val = true
          ∧ s.supervisor.mask.getLsbD k.val = true)

/-- CLEAR ALL ends every lease, wait, session, revocation, drain and notice and clears the replay
records and link error counts; attributes, policies, session numbers, attention masks, gate
bindings, the token counter, the lease clock, the timebase, the reference count and the event set
and mask stay (R17, R45, R68, R85, R122, R135, R144, R160, R171). -/
def Obligations.ClearAllKeepsTheConfiguration : Prop :=
  ∀ (s : State) (tag : Byte),
    exec (.clearAll tag [] (goodCrc 0x7F tag [])) s
      = .next
        ({ s with
            records := Vector.ofFn fun r =>
              if (s.record r).state = RecordState.offline ∨ (s.record r).retirePending = true then
                Record.cleared
              else
                { s.record r with
                  state := .idle, heldMode := none, slots := Vector.replicate 4 none
                  deadline := .absent }
            entries := Vector.replicate 32 none
            queues := Vector.replicate 64 []
            deadlines := []
            sessions := Vector.ofFn fun c =>
              { s.session c with
                port := .detached, ttl := 0, involved := Vector.replicate 64 false }
            notices := Vector.ofFn fun c => { s.noticeQueue c with queue := [] }
            cpis := Vector.ofFn fun p =>
              { s.cpi p with
                lastTag := 0, lastRequest := [], lastResponse := none, linkErrors := 0 }
            }.afterStored tag .ok [])

/-! The supervisor port -/

/-- Every refusal of the supervisor port leaves its response stored and nothing else: a wrong CRC,
an unknown code, a wrong length, a length byte of 17 or more (R162, R163). -/
def Obligations.SupervisorFrameRefusals : Prop :=
  ∀ (s : State) (code tag len : Byte) (params : List Byte) (crc : Byte),
    (∀ row ∈ supervisorRows, params.length ≤ 16 →
      (crc ≠ goodCrc row.code tag params →
        exec (row.command tag params crc) s = .next (s.afterStored tag .badFrame []))
      ∧ (crc = goodCrc row.code tag params → params.length ≠ row.length →
          exec (row.command tag params crc) s = .next (s.afterStored tag .badParams [])))
    ∧ ((supervisorRows.all fun row => row.code != code) = true → params.length ≤ 16 →
        (crc ≠ goodCrc code tag params →
          exec (.supervisorUnknownRequest code tag params crc) s
            = .next (s.afterStored tag .badFrame []))
        ∧ (crc = goodCrc code tag params →
            exec (.supervisorUnknownRequest code tag params crc) s
              = .next (s.afterStored tag .unknownRequest [])))
    ∧ (17 ≤ len.toNat →
        exec (.supervisorBadLength code tag len) s = .next (s.afterStored tag .badLength []))

/-- A write that ends before its request was taken leaves INCOMPLETE, with the tag if it had
arrived, and no other effect; the framing follows what ended it (R161, R164). -/
def Obligations.IncompleteWriteLeavesItsMark : Prop :=
  ∀ (s : State) (arrived : List Byte) (ending : WriteEnd),
    receive arrived = .short →
    exec (.incomplete arrived ending) s
      = .next
        { s with
          supervisor :=
            { s.supervisor with
              framing := match ending with
                | .stop => .idle
                | .restartOther => .idle
                | .restartWrite => .receiving []
                | .restartRead => .sending 0 true
              stored :=
                { status := .incomplete, tag := arrived.getD 1 0, replay := false
                  payload := [] } } }

/-! The lease clock -/

/-- TICK EVENT: one of a source not selected is none; else the lease clock advances by one, an
internal tick restarts the reference count, every deadline due is delivered in the order of the list,
each whole before the next is looked at, and none due is left (R69, R70, R71, R77; that the source is
an operand, and that an internal tick restarts the count at any value, is entry 6). -/
def Obligations.TickDeliversWhatIsDue : Prop :=
  ∀ (s : State) (src : TickSource),
    (s.timebase.source ≠ src → exec (.tickEvent src) s = .next s)
    ∧ (s.timebase.source = src → (∀ d ∈ s.deadlines, d.due ≠ s.clock + 1) →
        exec (.tickEvent src) s
          = .next { s with
              clock := s.clock + 1
              refCount := if src = .internal then 0 else s.refCount })
    ∧ (s.timebase.source = src →
        ∃ t, exec (.tickEvent src) s = .next t
          ∧ State.Delivers
              { s with
                clock := s.clock + 1
                refCount := if src = .internal then 0 else s.refCount } t
          ∧ t.clock = s.clock + 1
          ∧ t.refCount = (if src = .internal then 0 else s.refCount)
          ∧ (s.DeadlinesWf → ∀ d ∈ t.deadlines, d.due ≠ t.clock)
          ∧ ∀ d ∈ s.deadlines.head?, d.due = s.clock + 1 →
              (∀ d' ∈ s.deadlines.tail, d'.due ≠ s.clock + 1) →
              t = State.deliver
                { s with
                  clock := s.clock + 1
                  refCount := if src = .internal then 0 else s.refCount
                  deadlines := s.deadlines.tail } d.id)

/-- HOLD DEADLINE EXPIRY of an armed deadline: LEASE EXPIRED with the token, the client's UPGRADE
entry and its lease gone, the other holders as they were; with holders remaining the grant rule runs
in HELD alone, and after the last one the record goes on as R34 says; without an armed deadline there
is no expiry (R33, R34, R41, R42, R50, R74, R78; entry 4). -/
def Obligations.HoldExpiryEndsTheLease : Prop :=
  ∀ (s : State) (r : Res) (c : Client),
    (s.armed (.hold r c) = false → exec (.holdDeadlineExpiry r c) s = .next s)
    ∧ (s.RecordsWf → s.WaitersWf → s.armed (.hold r c) = true →
        ∀ l ∈ (s.record r).lease c,
          ∃ t, exec (.holdDeadlineExpiry r c) s = .next t
            ∧ t.holds r c = false ∧ t.waits r c = false ∧ t.armed (.hold r c) = false
            ∧ (t.noticeQueue c).queue
              = enqueueNotice r (.leaseExpired l.token) (s.noticeQueue c).queue
            ∧ (∀ c' : Client, c' ≠ c → s.holds r c' = true → t.holds r c' = true)
            ∧ s.sameElsewhere t r ∧ s.sameOutside t ∧ t.cpis = s.cpis
            ∧ t.supervisor.stored = s.supervisor.stored
            ∧ t.supervisor.framing = s.supervisor.framing)
    ∧ (s.RecordsWf → s.armed (.hold r c) = true → s.waits r c = false →
        ∀ l ∈ (s.record r).lease c,
          exec (.holdDeadlineExpiry r c) s
            = .next
              (if (s.record r).holders = [c] then
                State.afterLastHolder (s.leaseExpiring r c l.token) r
               else if (s.record r).state = .held then
                State.grantRule
                  { s.leaseExpiring r c l.token with
                    records := Vec.set s.records r
                      { s.record r with slots := Vec.set (s.record r).slots c none } } r
               else
                { s.leaseExpiring r c l.token with
                  records := Vec.set s.records r
                    { s.record r with slots := Vec.set (s.record r).slots c none } }))
    ∧ (s.RecordsWf → s.WaitersWf → s.armed (.hold r c) = true →
        ∀ l ∈ (s.record r).lease c, ∀ i ∈ s.queue r, s.entryOf c i = true →
          exec (.holdDeadlineExpiry r c) s
            = .next
              (if (s.record r).holders = [c] then
                State.afterLastHolder ((s.leaseExpiring r c l.token).withoutEntry r i) r
               else
                State.grantRule
                  { (s.leaseExpiring r c l.token).withoutEntry r i with
                    records := Vec.set s.records r
                      { s.record r with slots := Vec.set (s.record r).slots c none } } r))

/-- WAIT DEADLINE EXPIRY of an armed deadline: CLAIM TIMED OUT, the entry removed and its index
free, every lease kept, and the grant rule run; without an armed deadline there is no expiry (R62,
R63, R74, R78; entry 4). -/
def Obligations.WaitExpiryRemovesTheEntry : Prop :=
  ∀ (s : State) (i : PoolIx),
    (s.armed (.wait i) = false → exec (.waitDeadlineExpiry i) s = .next s)
    ∧ (s.RecordsWf → s.WaitersWf → s.armed (.wait i) = true →
        ∀ e ∈ s.entry i,
          ∃ t, exec (.waitDeadlineExpiry i) s = .next t
            ∧ t = State.grantRule
              ({ s with
                  sessions := Vec.set s.sessions e.client
                    ((s.session e.client).setInvolves e.resource true)
                  notices := Vec.set s.notices e.client
                    { s.noticeQueue e.client with
                      queue := enqueueNotice e.resource .claimTimedOut
                        (s.noticeQueue e.client).queue } }.withoutEntry e.resource i) e.resource
            ∧ t.entry i = none ∧ t.armed (.wait i) = false
            ∧ t.waits e.resource e.client = false
            ∧ (t.noticeQueue e.client).queue
              = enqueueNotice e.resource .claimTimedOut (s.noticeQueue e.client).queue
            ∧ (∀ c : Client, s.holds e.resource c = true → t.holds e.resource c = true)
            ∧ s.sameElsewhere t e.resource ∧ s.sameOutside t ∧ t.cpis = s.cpis
            ∧ t.supervisor.stored = s.supervisor.stored
            ∧ t.supervisor.framing = s.supervisor.framing)

/-- LAPSE of an ATTACHED client with its SESSION deadline armed: nothing of the session is left, the
port is LAPSED with one SESSION LAPSED notice that asserts its line, LAPSEn is raised; without an
armed deadline there is no expiry (R74, R78, R111, R113, R128; entry 4). -/
def Obligations.LapseEndsTheSession : Prop :=
  ∀ (s : State) (c : Client),
    (s.armed (.session c) = false → exec (.lapse c) s = .next s)
    ∧ (s.RecordsWf → s.WaitersWf → s.InvolvementWf → s.armed (.session c) = true →
        s.attached c = true →
        ∃ t, exec (.lapse c) s = .next t
          ∧ s.sessionGone t c
          ∧ (t.session c).port = .lapsed ∧ (t.session c).number = (s.session c).number
          ∧ (t.session c).policy = (s.session c).policy
          ∧ (t.noticeQueue c).queue = [.sessionLapsed (s.session c).number]
          ∧ t.attention c = true ∧ t.supervisor.events.getLsbD c.val = true
          ∧ s.othersKeep t c ∧ s.othersUntouched t c ∧ s.sameOutside t ∧ t.cpis = s.cpis
          ∧ t.supervisor.stored = s.supervisor.stored
          ∧ t.supervisor.framing = s.supervisor.framing)

/-- GRACE EXPIRY of an armed deadline on a REVOKING record: every holder loses its lease with
LEASE REVOKED and its token, FORCED REVOKE is raised, and the record leaves REVOKING and goes on as
after any last holder, the grant rule among it; without an armed deadline there is no expiry (R34,
R74, R78, R91, R101; entry 4). -/
def Obligations.GraceExpiryRemovesHolders : Prop :=
  ∀ (s : State) (r : Res),
    (s.armed (.grace r) = false → exec (.graceExpiry r) s = .next s)
    ∧ (s.RecordsWf → s.WaitersWf → s.armed (.grace r) = true →
        (s.record r).state = .revoking →
        ∃ t, exec (.graceExpiry r) s = .next t
          ∧ t = (State.afterLastHolder
              { s with
                deadlines := (withoutDeadline (.grace r) s.deadlines).filter fun d =>
                  match d.id with
                  | .hold r' c => !(r' == r && s.holds r c)
                  | .wait _ => true
                  | .session _ => true
                  | .grace _ => true
                  | .guard _ => true
                sessions := Vector.ofFn fun c =>
                  if s.holds r c then (s.session c).setInvolves r true else s.session c
                notices := Vector.ofFn fun c =>
                  match (s.record r).lease c with
                  | none => s.noticeQueue c
                  | some l =>
                    { s.noticeQueue c with
                      queue := enqueueNotice r (.leaseRevoked l.token)
                        (s.noticeQueue c).queue } } r).withEvent 9
          ∧ (t.record r).state ≠ .revoking ∧ t.armed (.grace r) = false
          ∧ ((s.record r).attrs.guard ≠ 0 → (t.record r).state = .draining)
          ∧ (∀ c : Client, ∀ l ∈ (s.record r).lease c,
              t.holds r c = false ∧ t.armed (.hold r c) = false
                ∧ (t.noticeQueue c).queue
                  = enqueueNotice r (.leaseRevoked l.token) (s.noticeQueue c).queue)
          ∧ t.supervisor.events.getLsbD 9 = true
          ∧ s.sameElsewhere t r ∧ s.sameOutside t ∧ t.cpis = s.cpis
          ∧ t.supervisor.stored = s.supervisor.stored
          ∧ t.supervisor.framing = s.supervisor.framing)

/-- GUARD EXPIRY of an armed deadline on a DRAINING record: OFFLINE and cleared with retire pending,
else IDLE and the grant rule runs; without an armed deadline there is no expiry (R74, R78, R95;
entry 4). -/
def Obligations.GuardExpiryEndsTheDrain : Prop :=
  ∀ (s : State) (r : Res),
    (s.armed (.guard r) = false → exec (.guardExpiry r) s = .next s)
    ∧ (s.armed (.guard r) = true → (s.record r).deadline = .guard →
        (s.record r).retirePending = true →
        exec (.guardExpiry r) s
          = .next { s with
              records := Vec.set s.records r Record.cleared
              deadlines := withoutDeadline (.guard r) s.deadlines })
    ∧ (s.armed (.guard r) = true → (s.record r).deadline = .guard →
        (s.record r).retirePending = false →
        exec (.guardExpiry r) s
          = .next
            ({ s with
                records := Vec.set s.records r
                  { s.record r with state := .idle, deadline := .absent }
                deadlines := withoutDeadline (.guard r) s.deadlines }.grantRule r))

/-! The grant rule -/

/-- The grant rule: nothing outside IDLE and HELD, on an empty queue, with the counter exhausted or
with an incompatible head; a compatible head is granted, with its entry gone, the lease, the next
token, the HOLD deadline and the GRANTED notice, and the rule runs on (R24 to R28). -/
def Obligations.GrantRuleGrantsHeadByHead : Prop :=
  ∀ (s : State) (r : Res),
    (((s.record r).state ≠ .idle ∧ (s.record r).state ≠ .held) ∨ s.queue r = []
        ∨ s.nextToken = 0 → s.grantRule r = s)
    ∧ (∀ i ∈ (s.queue r).head?, ∀ e ∈ s.entry i,
        (match e.kind with
          | .exclusive => (s.record r).holders ≠ []
          | .shared => (s.record r).holders ≠ [] ∧ (s.record r).heldMode ≠ some .shared
          | .upgrade => (s.record r).holders ≠ [e.client]) →
        s.grantRule r = s)
    ∧ (∀ i ∈ (s.queue r).head?, ∀ e ∈ s.entry i, e.resource = r →
        (s.record r).state = .idle ∨ (s.record r).state = .held → s.nextToken ≠ 0 →
        (match e.kind with
          | .exclusive => (s.record r).holders = []
          | .shared => (s.record r).holders = [] ∨ (s.record r).heldMode = some .shared
          | .upgrade => (s.record r).holders = [e.client]) →
        s.grantRule r
          = State.grantRule
            { s with
              queues := Vec.set s.queues r (s.queue r).tail
              entries := Vec.set s.entries i none
              records := Vec.set s.records r
                { s.record r with
                  state := .held
                  heldMode := some (if e.kind = .shared then .shared else .exclusive)
                  slots := Vec.set (s.record r).slots e.client
                    (some { token := s.nextToken, grantedAt := s.clock }) }
              nextToken := s.nextToken + 1
              deadlines := armedList s.clock (.hold r e.client)
                (effectiveHold (s.record r).attrs e.hold)
                (withoutDeadline (.wait i) s.deadlines)
              sessions := Vec.set s.sessions e.client
                ((s.session e.client).setInvolves r true)
              notices := Vec.set s.notices e.client
                { s.noticeQueue e.client with
                  queue := enqueueNotice r (.granted s.nextToken)
                    (s.noticeQueue e.client).queue }
              supervisor := s.supervisor.afterToken s.nextToken } r)

/-! What every step keeps -/

/-- Every record's content agrees with its state after every step (R2, R3, R4). -/
def Obligations.RecordsAgreeWithTheirStates : Prop :=
  ∀ s t : State, s.RecordsWf → step s = .next t → t.RecordsWf

/-- The deadline list stays ordered, with one entry per owner and kind, each due 1 to 65535 ticks
ahead (R72, R75, R76). -/
def Obligations.DeadlineListStaysOrdered : Prop :=
  ∀ s t : State, s.DeadlinesWf → step s = .next t → t.DeadlinesWf

/-- The wait pool stays partitioned into the queues, a client waits once per resource, UPGRADE
entries stand at the heads of resources their clients hold, and a client that is not ATTACHED has
nothing (R46, R47, R49, R105). -/
def Obligations.WaitersStayConsistent : Prop :=
  ∀ s t : State, s.RecordsWf → s.WaitersWf → step s = .next t → t.WaitersWf

/-- Every queue stays as the grant rule leaves it, and OFFLINE and retire-pending resources stay
without waiters: no compatible head is ever left waiting (R4, R25). -/
def Obligations.NoCompatibleHeadIsLeftWaiting : Prop :=
  ∀ s t : State, s.RecordsWf → s.WaitersWf → s.QueuesWf → step s = .next t → t.QueuesWf

/-- Every armed deadline keeps an owner in the state it was armed for, and every watched session,
revocation and drain keeps its deadline (R2, R78). -/
def Obligations.DeadlinesKeepLiveOwners : Prop :=
  ∀ s t : State, s.RecordsWf → s.WaitersWf → s.DeadlinesWf → s.OwnersWf → step s = .next t →
    t.OwnersWf

/-- Every token in force was issued before the counter's value and no two leases carry the same one
(R20, R21). -/
def Obligations.TokensStayUnique : Prop :=
  ∀ s t : State, s.TokensWf → step s = .next t → t.TokensWf

/-- Each queue holds at most one notice per resource, and what its port state allows (R124). -/
def Obligations.NoticesFollowTheSession : Prop :=
  ∀ s t : State, s.RecordsWf → s.WaitersWf → s.NoticesWf → step s = .next t → t.NoticesWf

/-- The involvement sets hold exactly what their clients hold, wait on or have an unread notice
about, and no tally exceeds 15 (R118). -/
def Obligations.TallyNeverExceedsFifteen : Prop :=
  ∀ s t : State, s.RecordsWf → s.WaitersWf → s.InvolvementWf → s.TallyWf → step s = .next t →
    t.InvolvementWf ∧ t.TallyWf
end

