-- ==== Sys2Proof/Laws/State.lean ====
section
/-! SUPPORT. One lemma per field and per named part for each update of the state. -/

namespace Sys2Proof

theorem Vec.get_set {α : Type} {n : Nat} (v : Vector α n) (i j : Fin n) (a : α) :
    Vec.get (Vec.set v i a) j = if j = i then a else Vec.get v j := by
  unfold Vec.get Vec.set
  by_cases h : j = i
  · subst h; simp
  · have : i.val ≠ j.val := fun e => h (Fin.ext e.symm)
    simp [h, this]

theorem Vec.get_replicate {α : Type} {n : Nat} (a : α) (i : Fin n) :
    Vec.get (Vector.replicate n a) i = a := by simp [Vec.get]

theorem Vec.get_map {α β : Type} {n : Nat} (f : α → β) (v : Vector α n) (i : Fin n) :
    Vec.get (v.map f) i = f (Vec.get v i) := by simp [Vec.get]

theorem Vec.get_ofFn {α : Type} {n : Nat} (f : Fin n → α) (i : Fin n) :
    Vec.get (Vector.ofFn f) i = f i := by simp [Vec.get]

theorem Vec.ext {α : Type} {n : Nat} {v w : Vector α n} (h : ∀ i, Vec.get v i = Vec.get w i) :
    v = w := by
  apply Vector.ext
  intro i hi
  exact h ⟨i, hi⟩

namespace Machine

section
variable (s : State)

@[simp] theorem State.setRecord_nextToken (r : Res) (x : Record) :
    (s.setRecord r x).nextToken = s.nextToken := rfl
@[simp] theorem State.setRecord_entries (r : Res) (x : Record) :
    (s.setRecord r x).entries = s.entries := rfl
@[simp] theorem State.setRecord_queues (r : Res) (x : Record) :
    (s.setRecord r x).queues = s.queues := rfl
@[simp] theorem State.setRecord_clock (r : Res) (x : Record) :
    (s.setRecord r x).clock = s.clock := rfl
@[simp] theorem State.setRecord_timebase (r : Res) (x : Record) :
    (s.setRecord r x).timebase = s.timebase := rfl
@[simp] theorem State.setRecord_refCount (r : Res) (x : Record) :
    (s.setRecord r x).refCount = s.refCount := rfl
@[simp] theorem State.setRecord_deadlines (r : Res) (x : Record) :
    (s.setRecord r x).deadlines = s.deadlines := rfl
@[simp] theorem State.setRecord_sessions (r : Res) (x : Record) :
    (s.setRecord r x).sessions = s.sessions := rfl
@[simp] theorem State.setRecord_notices (r : Res) (x : Record) :
    (s.setRecord r x).notices = s.notices := rfl
@[simp] theorem State.setRecord_gates (r : Res) (x : Record) :
    (s.setRecord r x).gates = s.gates := rfl
@[simp] theorem State.setRecord_cpis (r : Res) (x : Record) :
    (s.setRecord r x).cpis = s.cpis := rfl
@[simp] theorem State.setRecord_supervisor (r : Res) (x : Record) :
    (s.setRecord r x).supervisor = s.supervisor := rfl
@[simp] theorem State.setRecord_pending (r : Res) (x : Record) :
    (s.setRecord r x).pending = s.pending := rfl
@[simp] theorem State.setRecord_bus (r : Res) (x : Record) :
    (s.setRecord r x).bus = s.bus := rfl
@[simp] theorem State.setNextToken_records (t : Token) :
    (s.setNextToken t).records = s.records := rfl
@[simp] theorem State.setNextToken_nextToken (t : Token) : (s.setNextToken t).nextToken = t := rfl
@[simp] theorem State.setNextToken_entries (t : Token) :
    (s.setNextToken t).entries = s.entries := rfl
@[simp] theorem State.setNextToken_queues (t : Token) :
    (s.setNextToken t).queues = s.queues := rfl
@[simp] theorem State.setNextToken_clock (t : Token) :
    (s.setNextToken t).clock = s.clock := rfl
@[simp] theorem State.setNextToken_timebase (t : Token) :
    (s.setNextToken t).timebase = s.timebase := rfl
@[simp] theorem State.setNextToken_refCount (t : Token) :
    (s.setNextToken t).refCount = s.refCount := rfl
@[simp] theorem State.setNextToken_deadlines (t : Token) :
    (s.setNextToken t).deadlines = s.deadlines := rfl
@[simp] theorem State.setNextToken_sessions (t : Token) :
    (s.setNextToken t).sessions = s.sessions := rfl
@[simp] theorem State.setNextToken_notices (t : Token) :
    (s.setNextToken t).notices = s.notices := rfl
@[simp] theorem State.setNextToken_gates (t : Token) :
    (s.setNextToken t).gates = s.gates := rfl
@[simp] theorem State.setNextToken_cpis (t : Token) :
    (s.setNextToken t).cpis = s.cpis := rfl
@[simp] theorem State.setNextToken_supervisor (t : Token) :
    (s.setNextToken t).supervisor = s.supervisor := rfl
@[simp] theorem State.setNextToken_pending (t : Token) :
    (s.setNextToken t).pending = s.pending := rfl
@[simp] theorem State.setNextToken_bus (t : Token) :
    (s.setNextToken t).bus = s.bus := rfl
@[simp] theorem State.setEntry_records (i : PoolIx) (e : Option WaitEntry) :
    (s.setEntry i e).records = s.records := rfl
@[simp] theorem State.setEntry_nextToken (i : PoolIx) (e : Option WaitEntry) :
    (s.setEntry i e).nextToken = s.nextToken := rfl
@[simp] theorem State.setEntry_queues (i : PoolIx) (e : Option WaitEntry) :
    (s.setEntry i e).queues = s.queues := rfl
@[simp] theorem State.setEntry_clock (i : PoolIx) (e : Option WaitEntry) :
    (s.setEntry i e).clock = s.clock := rfl
@[simp] theorem State.setEntry_timebase (i : PoolIx) (e : Option WaitEntry) :
    (s.setEntry i e).timebase = s.timebase := rfl
@[simp] theorem State.setEntry_refCount (i : PoolIx) (e : Option WaitEntry) :
    (s.setEntry i e).refCount = s.refCount := rfl
@[simp] theorem State.setEntry_deadlines (i : PoolIx) (e : Option WaitEntry) :
    (s.setEntry i e).deadlines = s.deadlines := rfl
@[simp] theorem State.setEntry_sessions (i : PoolIx) (e : Option WaitEntry) :
    (s.setEntry i e).sessions = s.sessions := rfl
@[simp] theorem State.setEntry_notices (i : PoolIx) (e : Option WaitEntry) :
    (s.setEntry i e).notices = s.notices := rfl
@[simp] theorem State.setEntry_gates (i : PoolIx) (e : Option WaitEntry) :
    (s.setEntry i e).gates = s.gates := rfl
@[simp] theorem State.setEntry_cpis (i : PoolIx) (e : Option WaitEntry) :
    (s.setEntry i e).cpis = s.cpis := rfl
@[simp] theorem State.setEntry_supervisor (i : PoolIx) (e : Option WaitEntry) :
    (s.setEntry i e).supervisor = s.supervisor := rfl
@[simp] theorem State.setEntry_pending (i : PoolIx) (e : Option WaitEntry) :
    (s.setEntry i e).pending = s.pending := rfl
@[simp] theorem State.setEntry_bus (i : PoolIx) (e : Option WaitEntry) :
    (s.setEntry i e).bus = s.bus := rfl
@[simp] theorem State.setQueue_records (r : Res) (q : List PoolIx) :
    (s.setQueue r q).records = s.records := rfl
@[simp] theorem State.setQueue_nextToken (r : Res) (q : List PoolIx) :
    (s.setQueue r q).nextToken = s.nextToken := rfl
@[simp] theorem State.setQueue_entries (r : Res) (q : List PoolIx) :
    (s.setQueue r q).entries = s.entries := rfl
@[simp] theorem State.setQueue_clock (r : Res) (q : List PoolIx) :
    (s.setQueue r q).clock = s.clock := rfl
@[simp] theorem State.setQueue_timebase (r : Res) (q : List PoolIx) :
    (s.setQueue r q).timebase = s.timebase := rfl
@[simp] theorem State.setQueue_refCount (r : Res) (q : List PoolIx) :
    (s.setQueue r q).refCount = s.refCount := rfl
@[simp] theorem State.setQueue_deadlines (r : Res) (q : List PoolIx) :
    (s.setQueue r q).deadlines = s.deadlines := rfl
@[simp] theorem State.setQueue_sessions (r : Res) (q : List PoolIx) :
    (s.setQueue r q).sessions = s.sessions := rfl
@[simp] theorem State.setQueue_notices (r : Res) (q : List PoolIx) :
    (s.setQueue r q).notices = s.notices := rfl
@[simp] theorem State.setQueue_gates (r : Res) (q : List PoolIx) :
    (s.setQueue r q).gates = s.gates := rfl
@[simp] theorem State.setQueue_cpis (r : Res) (q : List PoolIx) :
    (s.setQueue r q).cpis = s.cpis := rfl
@[simp] theorem State.setQueue_supervisor (r : Res) (q : List PoolIx) :
    (s.setQueue r q).supervisor = s.supervisor := rfl
@[simp] theorem State.setQueue_pending (r : Res) (q : List PoolIx) :
    (s.setQueue r q).pending = s.pending := rfl
@[simp] theorem State.setQueue_bus (r : Res) (q : List PoolIx) :
    (s.setQueue r q).bus = s.bus := rfl
@[simp] theorem State.setClock_records (t : Clock) :
    (s.setClock t).records = s.records := rfl
@[simp] theorem State.setClock_nextToken (t : Clock) :
    (s.setClock t).nextToken = s.nextToken := rfl
@[simp] theorem State.setClock_entries (t : Clock) :
    (s.setClock t).entries = s.entries := rfl
@[simp] theorem State.setClock_queues (t : Clock) :
    (s.setClock t).queues = s.queues := rfl
@[simp] theorem State.setClock_clock (t : Clock) : (s.setClock t).clock = t := rfl
@[simp] theorem State.setClock_timebase (t : Clock) :
    (s.setClock t).timebase = s.timebase := rfl
@[simp] theorem State.setClock_refCount (t : Clock) :
    (s.setClock t).refCount = s.refCount := rfl
@[simp] theorem State.setClock_deadlines (t : Clock) :
    (s.setClock t).deadlines = s.deadlines := rfl
@[simp] theorem State.setClock_sessions (t : Clock) :
    (s.setClock t).sessions = s.sessions := rfl
@[simp] theorem State.setClock_notices (t : Clock) :
    (s.setClock t).notices = s.notices := rfl
@[simp] theorem State.setClock_gates (t : Clock) :
    (s.setClock t).gates = s.gates := rfl
@[simp] theorem State.setClock_cpis (t : Clock) :
    (s.setClock t).cpis = s.cpis := rfl
@[simp] theorem State.setClock_supervisor (t : Clock) :
    (s.setClock t).supervisor = s.supervisor := rfl
@[simp] theorem State.setClock_pending (t : Clock) :
    (s.setClock t).pending = s.pending := rfl
@[simp] theorem State.setClock_bus (t : Clock) :
    (s.setClock t).bus = s.bus := rfl
@[simp] theorem State.setTimebase_records (t : Timebase) :
    (s.setTimebase t).records = s.records := rfl
@[simp] theorem State.setTimebase_nextToken (t : Timebase) :
    (s.setTimebase t).nextToken = s.nextToken := rfl
@[simp] theorem State.setTimebase_entries (t : Timebase) :
    (s.setTimebase t).entries = s.entries := rfl
@[simp] theorem State.setTimebase_queues (t : Timebase) :
    (s.setTimebase t).queues = s.queues := rfl
@[simp] theorem State.setTimebase_clock (t : Timebase) :
    (s.setTimebase t).clock = s.clock := rfl
@[simp] theorem State.setTimebase_timebase (t : Timebase) : (s.setTimebase t).timebase = t := rfl
@[simp] theorem State.setTimebase_refCount (t : Timebase) :
    (s.setTimebase t).refCount = s.refCount := rfl
@[simp] theorem State.setTimebase_deadlines (t : Timebase) :
    (s.setTimebase t).deadlines = s.deadlines := rfl
@[simp] theorem State.setTimebase_sessions (t : Timebase) :
    (s.setTimebase t).sessions = s.sessions := rfl
@[simp] theorem State.setTimebase_notices (t : Timebase) :
    (s.setTimebase t).notices = s.notices := rfl
@[simp] theorem State.setTimebase_gates (t : Timebase) :
    (s.setTimebase t).gates = s.gates := rfl
@[simp] theorem State.setTimebase_cpis (t : Timebase) :
    (s.setTimebase t).cpis = s.cpis := rfl
@[simp] theorem State.setTimebase_supervisor (t : Timebase) :
    (s.setTimebase t).supervisor = s.supervisor := rfl
@[simp] theorem State.setTimebase_pending (t : Timebase) :
    (s.setTimebase t).pending = s.pending := rfl
@[simp] theorem State.setTimebase_bus (t : Timebase) :
    (s.setTimebase t).bus = s.bus := rfl
@[simp] theorem State.setRefCount_records (n : Nat) :
    (s.setRefCount n).records = s.records := rfl
@[simp] theorem State.setRefCount_nextToken (n : Nat) :
    (s.setRefCount n).nextToken = s.nextToken := rfl
@[simp] theorem State.setRefCount_entries (n : Nat) :
    (s.setRefCount n).entries = s.entries := rfl
@[simp] theorem State.setRefCount_queues (n : Nat) :
    (s.setRefCount n).queues = s.queues := rfl
@[simp] theorem State.setRefCount_clock (n : Nat) :
    (s.setRefCount n).clock = s.clock := rfl
@[simp] theorem State.setRefCount_timebase (n : Nat) :
    (s.setRefCount n).timebase = s.timebase := rfl
@[simp] theorem State.setRefCount_refCount (n : Nat) : (s.setRefCount n).refCount = n := rfl
@[simp] theorem State.setRefCount_deadlines (n : Nat) :
    (s.setRefCount n).deadlines = s.deadlines := rfl
@[simp] theorem State.setRefCount_sessions (n : Nat) :
    (s.setRefCount n).sessions = s.sessions := rfl
@[simp] theorem State.setRefCount_notices (n : Nat) :
    (s.setRefCount n).notices = s.notices := rfl
@[simp] theorem State.setRefCount_gates (n : Nat) :
    (s.setRefCount n).gates = s.gates := rfl
@[simp] theorem State.setRefCount_cpis (n : Nat) :
    (s.setRefCount n).cpis = s.cpis := rfl
@[simp] theorem State.setRefCount_supervisor (n : Nat) :
    (s.setRefCount n).supervisor = s.supervisor := rfl
@[simp] theorem State.setRefCount_pending (n : Nat) :
    (s.setRefCount n).pending = s.pending := rfl
@[simp] theorem State.setRefCount_bus (n : Nat) :
    (s.setRefCount n).bus = s.bus := rfl
@[simp] theorem State.setDeadlines_records (l : List Deadline) :
    (s.setDeadlines l).records = s.records := rfl
@[simp] theorem State.setDeadlines_nextToken (l : List Deadline) :
    (s.setDeadlines l).nextToken = s.nextToken := rfl
@[simp] theorem State.setDeadlines_entries (l : List Deadline) :
    (s.setDeadlines l).entries = s.entries := rfl
@[simp] theorem State.setDeadlines_queues (l : List Deadline) :
    (s.setDeadlines l).queues = s.queues := rfl
@[simp] theorem State.setDeadlines_clock (l : List Deadline) :
    (s.setDeadlines l).clock = s.clock := rfl
@[simp] theorem State.setDeadlines_timebase (l : List Deadline) :
    (s.setDeadlines l).timebase = s.timebase := rfl
@[simp] theorem State.setDeadlines_refCount (l : List Deadline) :
    (s.setDeadlines l).refCount = s.refCount := rfl
@[simp] theorem State.setDeadlines_deadlines (l : List Deadline) : (s.setDeadlines l).deadlines = l := rfl
@[simp] theorem State.setDeadlines_sessions (l : List Deadline) :
    (s.setDeadlines l).sessions = s.sessions := rfl
@[simp] theorem State.setDeadlines_notices (l : List Deadline) :
    (s.setDeadlines l).notices = s.notices := rfl
@[simp] theorem State.setDeadlines_gates (l : List Deadline) :
    (s.setDeadlines l).gates = s.gates := rfl
@[simp] theorem State.setDeadlines_cpis (l : List Deadline) :
    (s.setDeadlines l).cpis = s.cpis := rfl
@[simp] theorem State.setDeadlines_supervisor (l : List Deadline) :
    (s.setDeadlines l).supervisor = s.supervisor := rfl
@[simp] theorem State.setDeadlines_pending (l : List Deadline) :
    (s.setDeadlines l).pending = s.pending := rfl
@[simp] theorem State.setDeadlines_bus (l : List Deadline) :
    (s.setDeadlines l).bus = s.bus := rfl
@[simp] theorem State.setSession_records (c : Client) (x : Session) :
    (s.setSession c x).records = s.records := rfl
@[simp] theorem State.setSession_nextToken (c : Client) (x : Session) :
    (s.setSession c x).nextToken = s.nextToken := rfl
@[simp] theorem State.setSession_entries (c : Client) (x : Session) :
    (s.setSession c x).entries = s.entries := rfl
@[simp] theorem State.setSession_queues (c : Client) (x : Session) :
    (s.setSession c x).queues = s.queues := rfl
@[simp] theorem State.setSession_clock (c : Client) (x : Session) :
    (s.setSession c x).clock = s.clock := rfl
@[simp] theorem State.setSession_timebase (c : Client) (x : Session) :
    (s.setSession c x).timebase = s.timebase := rfl
@[simp] theorem State.setSession_refCount (c : Client) (x : Session) :
    (s.setSession c x).refCount = s.refCount := rfl
@[simp] theorem State.setSession_deadlines (c : Client) (x : Session) :
    (s.setSession c x).deadlines = s.deadlines := rfl
@[simp] theorem State.setSession_notices (c : Client) (x : Session) :
    (s.setSession c x).notices = s.notices := rfl
@[simp] theorem State.setSession_gates (c : Client) (x : Session) :
    (s.setSession c x).gates = s.gates := rfl
@[simp] theorem State.setSession_cpis (c : Client) (x : Session) :
    (s.setSession c x).cpis = s.cpis := rfl
@[simp] theorem State.setSession_supervisor (c : Client) (x : Session) :
    (s.setSession c x).supervisor = s.supervisor := rfl
@[simp] theorem State.setSession_pending (c : Client) (x : Session) :
    (s.setSession c x).pending = s.pending := rfl
@[simp] theorem State.setSession_bus (c : Client) (x : Session) :
    (s.setSession c x).bus = s.bus := rfl
@[simp] theorem State.setNoticeQueue_records (c : Client) (x : NoticeQueue) :
    (s.setNoticeQueue c x).records = s.records := rfl
@[simp] theorem State.setNoticeQueue_nextToken (c : Client) (x : NoticeQueue) :
    (s.setNoticeQueue c x).nextToken = s.nextToken := rfl
@[simp] theorem State.setNoticeQueue_entries (c : Client) (x : NoticeQueue) :
    (s.setNoticeQueue c x).entries = s.entries := rfl
@[simp] theorem State.setNoticeQueue_queues (c : Client) (x : NoticeQueue) :
    (s.setNoticeQueue c x).queues = s.queues := rfl
@[simp] theorem State.setNoticeQueue_clock (c : Client) (x : NoticeQueue) :
    (s.setNoticeQueue c x).clock = s.clock := rfl
@[simp] theorem State.setNoticeQueue_timebase (c : Client) (x : NoticeQueue) :
    (s.setNoticeQueue c x).timebase = s.timebase := rfl
@[simp] theorem State.setNoticeQueue_refCount (c : Client) (x : NoticeQueue) :
    (s.setNoticeQueue c x).refCount = s.refCount := rfl
@[simp] theorem State.setNoticeQueue_deadlines (c : Client) (x : NoticeQueue) :
    (s.setNoticeQueue c x).deadlines = s.deadlines := rfl
@[simp] theorem State.setNoticeQueue_sessions (c : Client) (x : NoticeQueue) :
    (s.setNoticeQueue c x).sessions = s.sessions := rfl
@[simp] theorem State.setNoticeQueue_gates (c : Client) (x : NoticeQueue) :
    (s.setNoticeQueue c x).gates = s.gates := rfl
@[simp] theorem State.setNoticeQueue_cpis (c : Client) (x : NoticeQueue) :
    (s.setNoticeQueue c x).cpis = s.cpis := rfl
@[simp] theorem State.setNoticeQueue_supervisor (c : Client) (x : NoticeQueue) :
    (s.setNoticeQueue c x).supervisor = s.supervisor := rfl
@[simp] theorem State.setNoticeQueue_pending (c : Client) (x : NoticeQueue) :
    (s.setNoticeQueue c x).pending = s.pending := rfl
@[simp] theorem State.setNoticeQueue_bus (c : Client) (x : NoticeQueue) :
    (s.setNoticeQueue c x).bus = s.bus := rfl
@[simp] theorem State.setGate_records (g : Gate) (b : Option Binding) :
    (s.setGate g b).records = s.records := rfl
@[simp] theorem State.setGate_nextToken (g : Gate) (b : Option Binding) :
    (s.setGate g b).nextToken = s.nextToken := rfl
@[simp] theorem State.setGate_entries (g : Gate) (b : Option Binding) :
    (s.setGate g b).entries = s.entries := rfl
@[simp] theorem State.setGate_queues (g : Gate) (b : Option Binding) :
    (s.setGate g b).queues = s.queues := rfl
@[simp] theorem State.setGate_clock (g : Gate) (b : Option Binding) :
    (s.setGate g b).clock = s.clock := rfl
@[simp] theorem State.setGate_timebase (g : Gate) (b : Option Binding) :
    (s.setGate g b).timebase = s.timebase := rfl
@[simp] theorem State.setGate_refCount (g : Gate) (b : Option Binding) :
    (s.setGate g b).refCount = s.refCount := rfl
@[simp] theorem State.setGate_deadlines (g : Gate) (b : Option Binding) :
    (s.setGate g b).deadlines = s.deadlines := rfl
@[simp] theorem State.setGate_sessions (g : Gate) (b : Option Binding) :
    (s.setGate g b).sessions = s.sessions := rfl
@[simp] theorem State.setGate_notices (g : Gate) (b : Option Binding) :
    (s.setGate g b).notices = s.notices := rfl
@[simp] theorem State.setGate_cpis (g : Gate) (b : Option Binding) :
    (s.setGate g b).cpis = s.cpis := rfl
@[simp] theorem State.setGate_supervisor (g : Gate) (b : Option Binding) :
    (s.setGate g b).supervisor = s.supervisor := rfl
@[simp] theorem State.setGate_pending (g : Gate) (b : Option Binding) :
    (s.setGate g b).pending = s.pending := rfl
@[simp] theorem State.setGate_bus (g : Gate) (b : Option Binding) :
    (s.setGate g b).bus = s.bus := rfl
@[simp] theorem State.setCpi_records (p : Client) (x : Cpi) :
    (s.setCpi p x).records = s.records := rfl
@[simp] theorem State.setCpi_nextToken (p : Client) (x : Cpi) :
    (s.setCpi p x).nextToken = s.nextToken := rfl
@[simp] theorem State.setCpi_entries (p : Client) (x : Cpi) :
    (s.setCpi p x).entries = s.entries := rfl
@[simp] theorem State.setCpi_queues (p : Client) (x : Cpi) :
    (s.setCpi p x).queues = s.queues := rfl
@[simp] theorem State.setCpi_clock (p : Client) (x : Cpi) :
    (s.setCpi p x).clock = s.clock := rfl
@[simp] theorem State.setCpi_timebase (p : Client) (x : Cpi) :
    (s.setCpi p x).timebase = s.timebase := rfl
@[simp] theorem State.setCpi_refCount (p : Client) (x : Cpi) :
    (s.setCpi p x).refCount = s.refCount := rfl
@[simp] theorem State.setCpi_deadlines (p : Client) (x : Cpi) :
    (s.setCpi p x).deadlines = s.deadlines := rfl
@[simp] theorem State.setCpi_sessions (p : Client) (x : Cpi) :
    (s.setCpi p x).sessions = s.sessions := rfl
@[simp] theorem State.setCpi_notices (p : Client) (x : Cpi) :
    (s.setCpi p x).notices = s.notices := rfl
@[simp] theorem State.setCpi_gates (p : Client) (x : Cpi) :
    (s.setCpi p x).gates = s.gates := rfl
@[simp] theorem State.setCpi_supervisor (p : Client) (x : Cpi) :
    (s.setCpi p x).supervisor = s.supervisor := rfl
@[simp] theorem State.setCpi_pending (p : Client) (x : Cpi) :
    (s.setCpi p x).pending = s.pending := rfl
@[simp] theorem State.setCpi_bus (p : Client) (x : Cpi) :
    (s.setCpi p x).bus = s.bus := rfl
@[simp] theorem State.setSupervisor_records (x : Supervisor) :
    (s.setSupervisor x).records = s.records := rfl
@[simp] theorem State.setSupervisor_nextToken (x : Supervisor) :
    (s.setSupervisor x).nextToken = s.nextToken := rfl
@[simp] theorem State.setSupervisor_entries (x : Supervisor) :
    (s.setSupervisor x).entries = s.entries := rfl
@[simp] theorem State.setSupervisor_queues (x : Supervisor) :
    (s.setSupervisor x).queues = s.queues := rfl
@[simp] theorem State.setSupervisor_clock (x : Supervisor) :
    (s.setSupervisor x).clock = s.clock := rfl
@[simp] theorem State.setSupervisor_timebase (x : Supervisor) :
    (s.setSupervisor x).timebase = s.timebase := rfl
@[simp] theorem State.setSupervisor_refCount (x : Supervisor) :
    (s.setSupervisor x).refCount = s.refCount := rfl
@[simp] theorem State.setSupervisor_deadlines (x : Supervisor) :
    (s.setSupervisor x).deadlines = s.deadlines := rfl
@[simp] theorem State.setSupervisor_sessions (x : Supervisor) :
    (s.setSupervisor x).sessions = s.sessions := rfl
@[simp] theorem State.setSupervisor_notices (x : Supervisor) :
    (s.setSupervisor x).notices = s.notices := rfl
@[simp] theorem State.setSupervisor_gates (x : Supervisor) :
    (s.setSupervisor x).gates = s.gates := rfl
@[simp] theorem State.setSupervisor_cpis (x : Supervisor) :
    (s.setSupervisor x).cpis = s.cpis := rfl
@[simp] theorem State.setSupervisor_supervisor (x : Supervisor) : (s.setSupervisor x).supervisor = x := rfl
@[simp] theorem State.setSupervisor_pending (x : Supervisor) :
    (s.setSupervisor x).pending = s.pending := rfl
@[simp] theorem State.setSupervisor_bus (x : Supervisor) :
    (s.setSupervisor x).bus = s.bus := rfl
@[simp] theorem State.setPending_records (l : List Instr) :
    (s.setPending l).records = s.records := rfl
@[simp] theorem State.setBus_records (l : List BusEvent) :
    (s.setBus l).records = s.records := rfl
@[simp] theorem State.setPending_nextToken (l : List Instr) :
    (s.setPending l).nextToken = s.nextToken := rfl
@[simp] theorem State.setBus_nextToken (l : List BusEvent) :
    (s.setBus l).nextToken = s.nextToken := rfl
@[simp] theorem State.setPending_entries (l : List Instr) :
    (s.setPending l).entries = s.entries := rfl
@[simp] theorem State.setBus_entries (l : List BusEvent) :
    (s.setBus l).entries = s.entries := rfl
@[simp] theorem State.setPending_queues (l : List Instr) :
    (s.setPending l).queues = s.queues := rfl
@[simp] theorem State.setBus_queues (l : List BusEvent) :
    (s.setBus l).queues = s.queues := rfl
@[simp] theorem State.setPending_clock (l : List Instr) :
    (s.setPending l).clock = s.clock := rfl
@[simp] theorem State.setBus_clock (l : List BusEvent) :
    (s.setBus l).clock = s.clock := rfl
@[simp] theorem State.setPending_timebase (l : List Instr) :
    (s.setPending l).timebase = s.timebase := rfl
@[simp] theorem State.setBus_timebase (l : List BusEvent) :
    (s.setBus l).timebase = s.timebase := rfl
@[simp] theorem State.setPending_refCount (l : List Instr) :
    (s.setPending l).refCount = s.refCount := rfl
@[simp] theorem State.setBus_refCount (l : List BusEvent) :
    (s.setBus l).refCount = s.refCount := rfl
@[simp] theorem State.setPending_deadlines (l : List Instr) :
    (s.setPending l).deadlines = s.deadlines := rfl
@[simp] theorem State.setBus_deadlines (l : List BusEvent) :
    (s.setBus l).deadlines = s.deadlines := rfl
@[simp] theorem State.setPending_sessions (l : List Instr) :
    (s.setPending l).sessions = s.sessions := rfl
@[simp] theorem State.setBus_sessions (l : List BusEvent) :
    (s.setBus l).sessions = s.sessions := rfl
@[simp] theorem State.setPending_notices (l : List Instr) :
    (s.setPending l).notices = s.notices := rfl
@[simp] theorem State.setBus_notices (l : List BusEvent) :
    (s.setBus l).notices = s.notices := rfl
@[simp] theorem State.setPending_gates (l : List Instr) :
    (s.setPending l).gates = s.gates := rfl
@[simp] theorem State.setBus_gates (l : List BusEvent) :
    (s.setBus l).gates = s.gates := rfl
@[simp] theorem State.setPending_cpis (l : List Instr) :
    (s.setPending l).cpis = s.cpis := rfl
@[simp] theorem State.setBus_cpis (l : List BusEvent) :
    (s.setBus l).cpis = s.cpis := rfl
@[simp] theorem State.setPending_supervisor (l : List Instr) :
    (s.setPending l).supervisor = s.supervisor := rfl
@[simp] theorem State.setBus_supervisor (l : List BusEvent) :
    (s.setBus l).supervisor = s.supervisor := rfl
@[simp] theorem State.setPending_pending (l : List Instr) : (s.setPending l).pending = l := rfl
@[simp] theorem State.setPending_bus (l : List Instr) : (s.setPending l).bus = s.bus := rfl
@[simp] theorem State.setBus_pending (l : List BusEvent) :
    (s.setBus l).pending = s.pending := rfl
@[simp] theorem State.setBus_bus (l : List BusEvent) : (s.setBus l).bus = l := rfl
theorem State.record_setRecord (r : Res) (x : Record) (k : Res) :
    (s.setRecord r x).record k = if k = r then x else s.record k := Vec.get_set ..
@[simp] theorem State.record_setRecord_self (r : Res) (x : Record) :
    (s.setRecord r x).record r = x := by simp [State.record_setRecord]
@[simp] theorem State.record_setNextToken (t : Token) (k : Res) :
    (s.setNextToken t).record k = s.record k := rfl
@[simp] theorem State.record_setEntry (i : PoolIx) (e : Option WaitEntry) (k : Res) :
    (s.setEntry i e).record k = s.record k := rfl
@[simp] theorem State.record_setQueue (r : Res) (q : List PoolIx) (k : Res) :
    (s.setQueue r q).record k = s.record k := rfl
@[simp] theorem State.record_setClock (t : Clock) (k : Res) :
    (s.setClock t).record k = s.record k := rfl
@[simp] theorem State.record_setTimebase (t : Timebase) (k : Res) :
    (s.setTimebase t).record k = s.record k := rfl
@[simp] theorem State.record_setRefCount (n : Nat) (k : Res) :
    (s.setRefCount n).record k = s.record k := rfl
@[simp] theorem State.record_setDeadlines (l : List Deadline) (k : Res) :
    (s.setDeadlines l).record k = s.record k := rfl
@[simp] theorem State.record_setSession (c : Client) (x : Session) (k : Res) :
    (s.setSession c x).record k = s.record k := rfl
@[simp] theorem State.record_setNoticeQueue (c : Client) (x : NoticeQueue) (k : Res) :
    (s.setNoticeQueue c x).record k = s.record k := rfl
@[simp] theorem State.record_setGate (g : Gate) (b : Option Binding) (k : Res) :
    (s.setGate g b).record k = s.record k := rfl
@[simp] theorem State.record_setCpi (p : Client) (x : Cpi) (k : Res) :
    (s.setCpi p x).record k = s.record k := rfl
@[simp] theorem State.record_setSupervisor (x : Supervisor) (k : Res) :
    (s.setSupervisor x).record k = s.record k := rfl
@[simp] theorem State.record_setPending (l : List Instr) (k : Res) :
    (s.setPending l).record k = s.record k := rfl
@[simp] theorem State.record_setBus (l : List BusEvent) (k : Res) :
    (s.setBus l).record k = s.record k := rfl
@[simp] theorem State.entry_setRecord (r : Res) (x : Record) (k : PoolIx) :
    (s.setRecord r x).entry k = s.entry k := rfl
@[simp] theorem State.entry_setNextToken (t : Token) (k : PoolIx) :
    (s.setNextToken t).entry k = s.entry k := rfl
theorem State.entry_setEntry (i : PoolIx) (e : Option WaitEntry) (k : PoolIx) :
    (s.setEntry i e).entry k = if k = i then e else s.entry k := Vec.get_set ..
@[simp] theorem State.entry_setEntry_self (i : PoolIx) (e : Option WaitEntry) :
    (s.setEntry i e).entry i = e := by simp [State.entry_setEntry]
@[simp] theorem State.entry_setQueue (r : Res) (q : List PoolIx) (k : PoolIx) :
    (s.setQueue r q).entry k = s.entry k := rfl
@[simp] theorem State.entry_setClock (t : Clock) (k : PoolIx) :
    (s.setClock t).entry k = s.entry k := rfl
@[simp] theorem State.entry_setTimebase (t : Timebase) (k : PoolIx) :
    (s.setTimebase t).entry k = s.entry k := rfl
@[simp] theorem State.entry_setRefCount (n : Nat) (k : PoolIx) :
    (s.setRefCount n).entry k = s.entry k := rfl
@[simp] theorem State.entry_setDeadlines (l : List Deadline) (k : PoolIx) :
    (s.setDeadlines l).entry k = s.entry k := rfl
@[simp] theorem State.entry_setSession (c : Client) (x : Session) (k : PoolIx) :
    (s.setSession c x).entry k = s.entry k := rfl
@[simp] theorem State.entry_setNoticeQueue (c : Client) (x : NoticeQueue) (k : PoolIx) :
    (s.setNoticeQueue c x).entry k = s.entry k := rfl
@[simp] theorem State.entry_setGate (g : Gate) (b : Option Binding) (k : PoolIx) :
    (s.setGate g b).entry k = s.entry k := rfl
@[simp] theorem State.entry_setCpi (p : Client) (x : Cpi) (k : PoolIx) :
    (s.setCpi p x).entry k = s.entry k := rfl
@[simp] theorem State.entry_setSupervisor (x : Supervisor) (k : PoolIx) :
    (s.setSupervisor x).entry k = s.entry k := rfl
@[simp] theorem State.entry_setPending (l : List Instr) (k : PoolIx) :
    (s.setPending l).entry k = s.entry k := rfl
@[simp] theorem State.entry_setBus (l : List BusEvent) (k : PoolIx) :
    (s.setBus l).entry k = s.entry k := rfl
@[simp] theorem State.queue_setRecord (r : Res) (x : Record) (k : Res) :
    (s.setRecord r x).queue k = s.queue k := rfl
@[simp] theorem State.queue_setNextToken (t : Token) (k : Res) :
    (s.setNextToken t).queue k = s.queue k := rfl
@[simp] theorem State.queue_setEntry (i : PoolIx) (e : Option WaitEntry) (k : Res) :
    (s.setEntry i e).queue k = s.queue k := rfl
theorem State.queue_setQueue (r : Res) (q : List PoolIx) (k : Res) :
    (s.setQueue r q).queue k = if k = r then q else s.queue k := Vec.get_set ..
@[simp] theorem State.queue_setQueue_self (r : Res) (q : List PoolIx) :
    (s.setQueue r q).queue r = q := by simp [State.queue_setQueue]
@[simp] theorem State.queue_setClock (t : Clock) (k : Res) :
    (s.setClock t).queue k = s.queue k := rfl
@[simp] theorem State.queue_setTimebase (t : Timebase) (k : Res) :
    (s.setTimebase t).queue k = s.queue k := rfl
@[simp] theorem State.queue_setRefCount (n : Nat) (k : Res) :
    (s.setRefCount n).queue k = s.queue k := rfl
@[simp] theorem State.queue_setDeadlines (l : List Deadline) (k : Res) :
    (s.setDeadlines l).queue k = s.queue k := rfl
@[simp] theorem State.queue_setSession (c : Client) (x : Session) (k : Res) :
    (s.setSession c x).queue k = s.queue k := rfl
@[simp] theorem State.queue_setNoticeQueue (c : Client) (x : NoticeQueue) (k : Res) :
    (s.setNoticeQueue c x).queue k = s.queue k := rfl
@[simp] theorem State.queue_setGate (g : Gate) (b : Option Binding) (k : Res) :
    (s.setGate g b).queue k = s.queue k := rfl
@[simp] theorem State.queue_setCpi (p : Client) (x : Cpi) (k : Res) :
    (s.setCpi p x).queue k = s.queue k := rfl
@[simp] theorem State.queue_setSupervisor (x : Supervisor) (k : Res) :
    (s.setSupervisor x).queue k = s.queue k := rfl
@[simp] theorem State.queue_setPending (l : List Instr) (k : Res) :
    (s.setPending l).queue k = s.queue k := rfl
@[simp] theorem State.queue_setBus (l : List BusEvent) (k : Res) :
    (s.setBus l).queue k = s.queue k := rfl
@[simp] theorem State.session_setRecord (r : Res) (x : Record) (k : Client) :
    (s.setRecord r x).session k = s.session k := rfl
@[simp] theorem State.session_setNextToken (t : Token) (k : Client) :
    (s.setNextToken t).session k = s.session k := rfl
@[simp] theorem State.session_setEntry (i : PoolIx) (e : Option WaitEntry) (k : Client) :
    (s.setEntry i e).session k = s.session k := rfl
@[simp] theorem State.session_setQueue (r : Res) (q : List PoolIx) (k : Client) :
    (s.setQueue r q).session k = s.session k := rfl
@[simp] theorem State.session_setClock (t : Clock) (k : Client) :
    (s.setClock t).session k = s.session k := rfl
@[simp] theorem State.session_setTimebase (t : Timebase) (k : Client) :
    (s.setTimebase t).session k = s.session k := rfl
@[simp] theorem State.session_setRefCount (n : Nat) (k : Client) :
    (s.setRefCount n).session k = s.session k := rfl
@[simp] theorem State.session_setDeadlines (l : List Deadline) (k : Client) :
    (s.setDeadlines l).session k = s.session k := rfl
theorem State.session_setSession (c : Client) (x : Session) (k : Client) :
    (s.setSession c x).session k = if k = c then x else s.session k := Vec.get_set ..
@[simp] theorem State.session_setSession_self (c : Client) (x : Session) :
    (s.setSession c x).session c = x := by simp [State.session_setSession]
@[simp] theorem State.session_setNoticeQueue (c : Client) (x : NoticeQueue) (k : Client) :
    (s.setNoticeQueue c x).session k = s.session k := rfl
@[simp] theorem State.session_setGate (g : Gate) (b : Option Binding) (k : Client) :
    (s.setGate g b).session k = s.session k := rfl
@[simp] theorem State.session_setCpi (p : Client) (x : Cpi) (k : Client) :
    (s.setCpi p x).session k = s.session k := rfl
@[simp] theorem State.session_setSupervisor (x : Supervisor) (k : Client) :
    (s.setSupervisor x).session k = s.session k := rfl
@[simp] theorem State.session_setPending (l : List Instr) (k : Client) :
    (s.setPending l).session k = s.session k := rfl
@[simp] theorem State.session_setBus (l : List BusEvent) (k : Client) :
    (s.setBus l).session k = s.session k := rfl
@[simp] theorem State.noticeQueue_setRecord (r : Res) (x : Record) (k : Client) :
    (s.setRecord r x).noticeQueue k = s.noticeQueue k := rfl
@[simp] theorem State.noticeQueue_setNextToken (t : Token) (k : Client) :
    (s.setNextToken t).noticeQueue k = s.noticeQueue k := rfl
@[simp] theorem State.noticeQueue_setEntry (i : PoolIx) (e : Option WaitEntry) (k : Client) :
    (s.setEntry i e).noticeQueue k = s.noticeQueue k := rfl
@[simp] theorem State.noticeQueue_setQueue (r : Res) (q : List PoolIx) (k : Client) :
    (s.setQueue r q).noticeQueue k = s.noticeQueue k := rfl
@[simp] theorem State.noticeQueue_setClock (t : Clock) (k : Client) :
    (s.setClock t).noticeQueue k = s.noticeQueue k := rfl
@[simp] theorem State.noticeQueue_setTimebase (t : Timebase) (k : Client) :
    (s.setTimebase t).noticeQueue k = s.noticeQueue k := rfl
@[simp] theorem State.noticeQueue_setRefCount (n : Nat) (k : Client) :
    (s.setRefCount n).noticeQueue k = s.noticeQueue k := rfl
@[simp] theorem State.noticeQueue_setDeadlines (l : List Deadline) (k : Client) :
    (s.setDeadlines l).noticeQueue k = s.noticeQueue k := rfl
@[simp] theorem State.noticeQueue_setSession (c : Client) (x : Session) (k : Client) :
    (s.setSession c x).noticeQueue k = s.noticeQueue k := rfl
theorem State.noticeQueue_setNoticeQueue (c : Client) (x : NoticeQueue) (k : Client) :
    (s.setNoticeQueue c x).noticeQueue k = if k = c then x else s.noticeQueue k := Vec.get_set ..
@[simp] theorem State.noticeQueue_setNoticeQueue_self (c : Client) (x : NoticeQueue) :
    (s.setNoticeQueue c x).noticeQueue c = x := by simp [State.noticeQueue_setNoticeQueue]
@[simp] theorem State.noticeQueue_setGate (g : Gate) (b : Option Binding) (k : Client) :
    (s.setGate g b).noticeQueue k = s.noticeQueue k := rfl
@[simp] theorem State.noticeQueue_setCpi (p : Client) (x : Cpi) (k : Client) :
    (s.setCpi p x).noticeQueue k = s.noticeQueue k := rfl
@[simp] theorem State.noticeQueue_setSupervisor (x : Supervisor) (k : Client) :
    (s.setSupervisor x).noticeQueue k = s.noticeQueue k := rfl
@[simp] theorem State.noticeQueue_setPending (l : List Instr) (k : Client) :
    (s.setPending l).noticeQueue k = s.noticeQueue k := rfl
@[simp] theorem State.noticeQueue_setBus (l : List BusEvent) (k : Client) :
    (s.setBus l).noticeQueue k = s.noticeQueue k := rfl
@[simp] theorem State.gate_setRecord (r : Res) (x : Record) (k : Gate) :
    (s.setRecord r x).gate k = s.gate k := rfl
@[simp] theorem State.gate_setNextToken (t : Token) (k : Gate) :
    (s.setNextToken t).gate k = s.gate k := rfl
@[simp] theorem State.gate_setEntry (i : PoolIx) (e : Option WaitEntry) (k : Gate) :
    (s.setEntry i e).gate k = s.gate k := rfl
@[simp] theorem State.gate_setQueue (r : Res) (q : List PoolIx) (k : Gate) :
    (s.setQueue r q).gate k = s.gate k := rfl
@[simp] theorem State.gate_setClock (t : Clock) (k : Gate) :
    (s.setClock t).gate k = s.gate k := rfl
@[simp] theorem State.gate_setTimebase (t : Timebase) (k : Gate) :
    (s.setTimebase t).gate k = s.gate k := rfl
@[simp] theorem State.gate_setRefCount (n : Nat) (k : Gate) :
    (s.setRefCount n).gate k = s.gate k := rfl
@[simp] theorem State.gate_setDeadlines (l : List Deadline) (k : Gate) :
    (s.setDeadlines l).gate k = s.gate k := rfl
@[simp] theorem State.gate_setSession (c : Client) (x : Session) (k : Gate) :
    (s.setSession c x).gate k = s.gate k := rfl
@[simp] theorem State.gate_setNoticeQueue (c : Client) (x : NoticeQueue) (k : Gate) :
    (s.setNoticeQueue c x).gate k = s.gate k := rfl
theorem State.gate_setGate (g : Gate) (b : Option Binding) (k : Gate) :
    (s.setGate g b).gate k = if k = g then b else s.gate k := Vec.get_set ..
@[simp] theorem State.gate_setGate_self (g : Gate) (b : Option Binding) :
    (s.setGate g b).gate g = b := by simp [State.gate_setGate]
@[simp] theorem State.gate_setCpi (p : Client) (x : Cpi) (k : Gate) :
    (s.setCpi p x).gate k = s.gate k := rfl
@[simp] theorem State.gate_setSupervisor (x : Supervisor) (k : Gate) :
    (s.setSupervisor x).gate k = s.gate k := rfl
@[simp] theorem State.gate_setPending (l : List Instr) (k : Gate) :
    (s.setPending l).gate k = s.gate k := rfl
@[simp] theorem State.gate_setBus (l : List BusEvent) (k : Gate) :
    (s.setBus l).gate k = s.gate k := rfl
@[simp] theorem State.cpi_setRecord (r : Res) (x : Record) (k : Client) :
    (s.setRecord r x).cpi k = s.cpi k := rfl
@[simp] theorem State.cpi_setNextToken (t : Token) (k : Client) :
    (s.setNextToken t).cpi k = s.cpi k := rfl
@[simp] theorem State.cpi_setEntry (i : PoolIx) (e : Option WaitEntry) (k : Client) :
    (s.setEntry i e).cpi k = s.cpi k := rfl
@[simp] theorem State.cpi_setQueue (r : Res) (q : List PoolIx) (k : Client) :
    (s.setQueue r q).cpi k = s.cpi k := rfl
@[simp] theorem State.cpi_setClock (t : Clock) (k : Client) :
    (s.setClock t).cpi k = s.cpi k := rfl
@[simp] theorem State.cpi_setTimebase (t : Timebase) (k : Client) :
    (s.setTimebase t).cpi k = s.cpi k := rfl
@[simp] theorem State.cpi_setRefCount (n : Nat) (k : Client) :
    (s.setRefCount n).cpi k = s.cpi k := rfl
@[simp] theorem State.cpi_setDeadlines (l : List Deadline) (k : Client) :
    (s.setDeadlines l).cpi k = s.cpi k := rfl
@[simp] theorem State.cpi_setSession (c : Client) (x : Session) (k : Client) :
    (s.setSession c x).cpi k = s.cpi k := rfl
@[simp] theorem State.cpi_setNoticeQueue (c : Client) (x : NoticeQueue) (k : Client) :
    (s.setNoticeQueue c x).cpi k = s.cpi k := rfl
@[simp] theorem State.cpi_setGate (g : Gate) (b : Option Binding) (k : Client) :
    (s.setGate g b).cpi k = s.cpi k := rfl
theorem State.cpi_setCpi (p : Client) (x : Cpi) (k : Client) :
    (s.setCpi p x).cpi k = if k = p then x else s.cpi k := Vec.get_set ..
@[simp] theorem State.cpi_setCpi_self (p : Client) (x : Cpi) :
    (s.setCpi p x).cpi p = x := by simp [State.cpi_setCpi]
@[simp] theorem State.cpi_setSupervisor (x : Supervisor) (k : Client) :
    (s.setSupervisor x).cpi k = s.cpi k := rfl
@[simp] theorem State.cpi_setPending (l : List Instr) (k : Client) :
    (s.setPending l).cpi k = s.cpi k := rfl
@[simp] theorem State.cpi_setBus (l : List BusEvent) (k : Client) :
    (s.setBus l).cpi k = s.cpi k := rfl

end

/-! Parts of a record and of a session -/

theorem Record.lease_setLease (x : Record) (c k : Client) (l : Option Lease) :
    (x.setLease c l).lease k = if k = c then l else x.lease k := Vec.get_set ..

@[simp] theorem Record.lease_setLease_self (x : Record) (c : Client) (l : Option Lease) :
    (x.setLease c l).lease c = l := by simp [Record.lease_setLease]

@[simp] theorem Record.setLease_state (x : Record) (c : Client) (l : Option Lease) :
    (x.setLease c l).state = x.state := rfl
@[simp] theorem Record.setLease_heldMode (x : Record) (c : Client) (l : Option Lease) :
    (x.setLease c l).heldMode = x.heldMode := rfl
@[simp] theorem Record.setLease_attrs (x : Record) (c : Client) (l : Option Lease) :
    (x.setLease c l).attrs = x.attrs := rfl
@[simp] theorem Record.setLease_retirePending (x : Record) (c : Client) (l : Option Lease) :
    (x.setLease c l).retirePending = x.retirePending := rfl
@[simp] theorem Record.setLease_deadline (x : Record) (c : Client) (l : Option Lease) :
    (x.setLease c l).deadline = x.deadline := rfl

theorem Session.involves_setInvolves (x : Session) (r k : Res) (b : Bool) :
    (x.setInvolves r b).involves k = if k = r then b else x.involves k := Vec.get_set ..

@[simp] theorem Session.setInvolves_port (x : Session) (r : Res) (b : Bool) :
    (x.setInvolves r b).port = x.port := rfl
@[simp] theorem Session.setInvolves_number (x : Session) (r : Res) (b : Bool) :
    (x.setInvolves r b).number = x.number := rfl
@[simp] theorem Session.setInvolves_ttl (x : Session) (r : Res) (b : Bool) :
    (x.setInvolves r b).ttl = x.ttl := rfl
@[simp] theorem Session.setInvolves_policy (x : Session) (r : Res) (b : Bool) :
    (x.setInvolves r b).policy = x.policy := rfl

end Machine

end Sys2Proof
end

