-- ==== Sys2Proof/Laws/Ports.lean ====
section
/-! SUPPORT. What happens to leases neither reads nor writes the client ports, the supervisor port's
framing or its stored response: each operation commutes with replacing them. -/

namespace Sys2Proof.Machine

/-- The state with other client ports, another framing state and another stored response. -/
def State.withPorts (s : State) (v : Vector Cpi 4) (g : SupervisorFraming) (y : Response) :
    State :=
  { s with cpis := v, supervisor := { s.supervisor with framing := g, stored := y } }

section
variable (s : State) (v : Vector Cpi 4) (g : SupervisorFraming) (y : Response)

@[simp] theorem State.withPorts_cpis : (s.withPorts v g y).cpis = v := rfl

@[simp] theorem State.withPorts_framing : (s.withPorts v g y).supervisor.framing = g := rfl

@[simp] theorem State.withPorts_stored : (s.withPorts v g y).supervisor.stored = y := rfl

@[simp] theorem State.withPorts_withPorts (w : Vector Cpi 4) (k : SupervisorFraming)
    (z : Response) : (s.withPorts v g y).withPorts w k z = s.withPorts w k z := rfl

@[simp] theorem State.withPorts_self :
    s.withPorts s.cpis s.supervisor.framing s.supervisor.stored = s := rfl

theorem State.report_withPorts (r : Res) (c : Client) :
    (s.withPorts v g y).report r c = (s.report r c).withPorts v g y := rfl

theorem State.raise_withPorts (e : EventSource) :
    (s.withPorts v g y).raise e = (s.raise e).withPorts v g y := rfl

theorem State.disarm_withPorts (id : DeadlineId) :
    (s.withPorts v g y).disarm id = (s.disarm id).withPorts v g y := rfl

theorem State.arm_withPorts (id : DeadlineId) (n : Ticks) :
    (s.withPorts v g y).arm id n = (s.arm id n).withPorts v g y := by
  unfold State.arm
  split <;> rfl

theorem State.notify_withPorts (c : Client) (r : Res) (w : ResourceWord) :
    (s.withPorts v g y).notify c r w = (s.notify c r w).withPorts v g y := rfl

theorem State.removeEntry_withPorts (i : PoolIx) :
    (s.withPorts v g y).removeEntry i = (s.removeEntry i).withPorts v g y := by
  unfold State.removeEntry
  have h : (s.withPorts v g y).entry i = s.entry i := rfl
  rw [h]
  cases s.entry i <;> rfl

theorem State.allocate_withPorts (i : PoolIx) (e : WaitEntry) (q : List PoolIx) (wait : Ticks) :
    (s.withPorts v g y).allocate i e q wait = (s.allocate i e q wait).withPorts v g y := by
  unfold State.allocate State.armWait State.arm
  split <;> first | rfl | (split <;> rfl)

theorem State.takeToken_withPorts : (s.withPorts v g y).takeToken = s.takeToken.withPorts v g y := by
  unfold State.takeToken
  have h : (s.withPorts v g y).nextToken = s.nextToken := rfl
  rw [h]
  dsimp only
  split <;> rfl

theorem State.grant_withPorts (r : Res) (c : Client) (m : Mode) (hold : Ticks) :
    (s.withPorts v g y).grant r c m hold = (s.grant r c m hold).withPorts v g y := by
  unfold State.grant
  have set : ∀ (t : State) (x : Record),
      (t.withPorts v g y).setRecord r x = (t.setRecord r x).withPorts v g y := fun _ _ => rfl
  have hl : (s.withPorts v g y).newLease = s.newLease := rfl
  have hr : (s.withPorts v g y).record r = s.record r := rfl
  simp only [set, hl, hr, State.takeToken_withPorts, State.arm_withPorts, State.report_withPorts]

theorem State.grantEntry_withPorts (r : Res) (i : PoolIx) (e : WaitEntry) :
    (s.withPorts v g y).grantEntry r i e = (s.grantEntry r i e).withPorts v g y := by
  unfold State.grantEntry
  rw [State.removeEntry_withPorts, State.grant_withPorts, State.notify_withPorts]
  rfl

theorem State.grantHeads_withPorts (r : Res) (q : List PoolIx) :
    (s.withPorts v g y).grantHeads r q = (s.grantHeads r q).withPorts v g y := by
  induction q generalizing s with
  | nil => rfl
  | cons i rest ih =>
    unfold State.grantHeads
    have h : (s.withPorts v g y).entry i = s.entry i := rfl
    rw [h]
    cases s.entry i with
    | none => rfl
    | some e =>
      have hx : (s.withPorts v g y).exhausted = s.exhausted := rfl
      have hr : (s.withPorts v g y).record r = s.record r := rfl
      simp only [hx, hr, State.grantEntry_withPorts, ih]
      split <;> rfl

theorem State.grantRule_withPorts (r : Res) :
    (s.withPorts v g y).grantRule r = (s.grantRule r).withPorts v g y := by
  unfold State.grantRule
  have hr : (s.withPorts v g y).record r = s.record r := rfl
  have hq : (s.withPorts v g y).queue r = s.queue r := rfl
  rw [hr, hq, State.grantHeads_withPorts]
  split <;> rfl

theorem State.lastHolderLeft_withPorts (r : Res) :
    (s.withPorts v g y).lastHolderLeft r = (s.lastHolderLeft r).withPorts v g y := by
  unfold State.lastHolderLeft
  have hr : (s.withPorts v g y).record r = s.record r := rfl
  simp only [hr]
  have hd : (if (s.record r).state = .revoking then (s.withPorts v g y).disarm (.grace r)
        else s.withPorts v g y)
      = (if (s.record r).state = .revoking then s.disarm (.grace r) else s).withPorts v g y := by
    split <;> rfl
  rw [hd]
  have set : ∀ (t : State) (x : Record),
      (t.withPorts v g y).setRecord r x = (t.setRecord r x).withPorts v g y := fun _ _ => rfl
  simp only [set, State.arm_withPorts, State.grantRule_withPorts]
  split
  · rfl
  · split <;> rfl

theorem State.endLease_withPorts (r : Res) (c : Client) (quiet : Bool) :
    (s.withPorts v g y).endLease r c quiet = (s.endLease r c quiet).withPorts v g y := by
  unfold State.endLease
  have hr : (s.withPorts v g y).record r = s.record r := rfl
  have set : ∀ (t : State) (x : Record),
      (t.withPorts v g y).setRecord r x = (t.setRecord r x).withPorts v g y := fun _ _ => rfl
  have hrec : ∀ t : State, (t.withPorts v g y).record r = t.record r := fun _ => rfl
  simp only [hr, set, hrec, State.disarm_withPorts, State.report_withPorts,
    State.lastHolderLeft_withPorts, State.grantRule_withPorts]
  split
  · rfl
  · split <;> rfl

theorem State.removeUpgrade_withPorts (r : Res) (c : Client) :
    (s.withPorts v g y).removeUpgrade r c = (s.removeUpgrade r c).withPorts v g y := by
  unfold State.removeUpgrade
  have h : (s.withPorts v g y).upgradeOf r c = s.upgradeOf r c := rfl
  rw [h]
  cases s.upgradeOf r c with
  | none => rfl
  | some i => exact State.removeEntry_withPorts s v g y i

theorem State.removeHolder_withPorts (r : Res) (c : Client) :
    State.removeHolder r (s.withPorts v g y) c = (State.removeHolder r s c).withPorts v g y := by
  unfold State.removeHolder
  have h : ((s.withPorts v g y).record r).lease c = (s.record r).lease c := rfl
  rw [h]
  cases (s.record r).lease c with
  | none => rfl
  | some l => rw [← State.endLease_withPorts]; rfl

theorem State.removeHolders_withPorts (r : Res) :
    (s.withPorts v g y).removeHolders r = (s.removeHolders r).withPorts v g y := by
  unfold State.removeHolders
  have h : ((s.withPorts v g y).record r).holders = (s.record r).holders := rfl
  rw [h]
  clear h
  generalize (s.record r).holders = l
  induction l generalizing s with
  | nil => rfl
  | cons c rest ih => simp only [List.foldl_cons, State.removeHolder_withPorts, ih]

theorem State.dropWait_withPorts (c : Client) (r : Res) :
    (s.withPorts v g y).dropWait c r = (s.dropWait c r).withPorts v g y := by
  unfold State.dropWait
  have h : (s.withPorts v g y).waitOf r c = s.waitOf r c := rfl
  rw [h]
  cases s.waitOf r c with
  | none => rfl
  | some i => simp only [State.removeEntry_withPorts, State.grantRule_withPorts]

theorem State.dropLease_withPorts (c : Client) (r : Res) :
    (s.withPorts v g y).dropLease c r = (s.dropLease c r).withPorts v g y := by
  unfold State.dropLease
  have h : (s.withPorts v g y).holds r c = s.holds r c := rfl
  rw [h, State.endLease_withPorts]
  split <;> rfl

theorem State.releaseResource_withPorts (c : Client) (r : Res) :
    State.releaseResource c (s.withPorts v g y) r = (State.releaseResource c s r).withPorts v g y := by
  simp only [State.releaseResource, State.dropWait_withPorts, State.dropLease_withPorts]

theorem State.reportRemoved_withPorts (c : Client) (n : Notice) :
    (s.withPorts v g y).reportRemoved c n = (s.reportRemoved c n).withPorts v g y := by
  cases n <;> rfl

theorem State.discardNotices_withPorts (c : Client) :
    (s.withPorts v g y).discardNotices c = (s.discardNotices c).withPorts v g y := by
  unfold State.discardNotices
  have h : (s.withPorts v g y).noticeQueue c = s.noticeQueue c := rfl
  simp only [h]
  have set : ∀ (t : State) (x : NoticeQueue),
      (t.withPorts v g y).setNoticeQueue c x = (t.setNoticeQueue c x).withPorts v g y := fun _ _ => rfl
  rw [set]
  generalize s.setNoticeQueue c { s.noticeQueue c with queue := [] } = t
  generalize (s.noticeQueue c).queue = l
  induction l generalizing t with
  | nil => rfl
  | cons n rest ih => simp only [List.foldl_cons, State.reportRemoved_withPorts, ih]

theorem State.foldl_withPorts {α : Type} (f : State → α → State)
    (h : ∀ (t : State) (w : Vector Cpi 4) (k : SupervisorFraming) (z : Response) (a : α),
      f (t.withPorts w k z) a = (f t a).withPorts w k z)
    (l : List α) : l.foldl f (s.withPorts v g y) = (l.foldl f s).withPorts v g y := by
  induction l generalizing s with
  | nil => rfl
  | cons a rest ih => rw [List.foldl_cons, List.foldl_cons, h, ih]

theorem State.massRelease_withPorts (c : Client) :
    (s.withPorts v g y).massRelease c = (s.massRelease c).withPorts v g y := by
  unfold State.massRelease
  rw [← State.discardNotices_withPorts, State.foldl_withPorts]
  exact fun t w k z r => State.releaseResource_withPorts t w k z c r

end

end Sys2Proof.Machine
end

