-- ==== Sys2Proof/Laws/Link.lean ====
section
/-! SUPPORT. What taking a frame does, once for every request of a port: the refusals, the replay, and
the execution, as one update of the state the owner's rule leaves. -/

namespace Sys2Proof.Machine

/-! Numbers and two-byte fields -/

theorem numberBelow_numberByte {n : Nat} (h : n ≤ 256) (i : Fin n) :
    numberBelow n (numberByte i) = some i := by
  have hi : i.val % 256 = i.val := Nat.mod_eq_of_lt (lt_of_lt_of_le i.isLt h)
  have hb : (numberByte i).toNat = i.val := by simp [numberByte, hi]
  unfold numberBelow
  simp [hb]

theorem numberBelow_of_le {n : Nat} {b : Byte} (h : n ≤ b.toNat) : numberBelow n b = none := by
  unfold numberBelow
  simp [Nat.not_lt.mpr h]

theorem numberBelow_of_lt {n : Nat} [NeZero n] {b : Byte} (h : b.toNat < n) :
    numberBelow n b = some (Fin.ofNat n b.toNat) := by
  unfold numberBelow
  simp [h, Fin.ofNat, Nat.mod_eq_of_lt h]

theorem modeOf_claimCode (m : Mode) : modeOf m.claimCode = some m := by cases m <;> rfl

/-- The two bytes of a two-byte field give it back. -/
theorem half_of_bytes (v : BitVec 16) :
    half ((v >>> 8).setWidth 8) (v.setWidth 8) = v := by
  unfold half
  ext i hi
  simp only [BitVec.getElem_append]
  split
  · simp [hi]
  · rename_i h
    have : 8 + (i - 8) = i := by omega
    simp [this, BitVec.getLsbD_eq_getElem hi]

/-! Checks in order -/

theorem State.checked_of_fail {s : State} {l : List (Bool × Status)} {st : Status} {d : Decision}
    (h : firstFailing l = some st) : s.checked l d = s.answer st := by
  simp [State.checked, h]

theorem State.checked_of_pass {s : State} {l : List (Bool × Status)} {d : Decision}
    (h : firstFailing l = none) : s.checked l d = d := by
  simp [State.checked, h]

theorem firstFailing_eq_none {l : List (Bool × Status)} :
    firstFailing l = none ↔ ∀ x ∈ l, x.1 = true := by
  induction l with
  | nil => simp [firstFailing]
  | cons x rest ih =>
    obtain ⟨b, st⟩ := x
    cases b <;> simp [firstFailing, ih]

/-! Decisions that leave the ports alone -/

/-- The decision with other ports in its state. -/
def Decision.withPorts (d : Decision) (v : Vector Cpi 4) (g : SupervisorFraming) (y : Response) :
    Decision :=
  { d with state := d.state.withPorts v g y }

@[simp] theorem Decision.withPorts_state (d : Decision) (v : Vector Cpi 4)
    (g : SupervisorFraming) (y : Response) :
    (d.withPorts v g y).state = d.state.withPorts v g y := rfl

@[simp] theorem Decision.withPorts_status (d : Decision) (v : Vector Cpi 4)
    (g : SupervisorFraming) (y : Response) : (d.withPorts v g y).status = d.status := rfl

@[simp] theorem Decision.withPorts_payload (d : Decision) (v : Vector Cpi 4)
    (g : SupervisorFraming) (y : Response) : (d.withPorts v g y).payload = d.payload := rfl

/-- An owner's rule that neither reads nor writes the ports. -/
def PortFree (rule : State → Decision) : Prop :=
  ∀ (s : State) (v : Vector Cpi 4) (g : SupervisorFraming) (y : Response),
    rule (s.withPorts v g y) = (rule s).withPorts v g y

/-- A port-free rule leaves the ports as they were. -/
theorem PortFree.ports {rule : State → Decision} (h : PortFree rule) (s : State) :
    (rule s).state.cpis = s.cpis
      ∧ (rule s).state.supervisor.framing = s.supervisor.framing
      ∧ (rule s).state.supervisor.stored = s.supervisor.stored := by
  have e := h s s.cpis s.supervisor.framing s.supervisor.stored
  rw [State.withPorts_self] at e
  rw [e]
  exact ⟨rfl, rfl, rfl⟩

theorem portFree_answer (st : Status) : PortFree fun s => s.answer st := fun _ _ _ _ => rfl

/-! A transaction of a client port -/

theorem State.withPorts_cpi (s : State) (v : Vector Cpi 4) (g : SupervisorFraming) (y : Response)
    (p : Client) : (s.withPorts v g y).cpi p = Vec.get v p := rfl

theorem State.setCpi_eq (s : State) (p : Client) (x : Cpi) :
    s.setCpi p x
      = s.withPorts (Vec.set s.cpis p x) s.supervisor.framing s.supervisor.stored := rfl

theorem Vec.set_set {α : Type} {n : Nat} (v : Vector α n) (i : Fin n) (a b : α) :
    Vec.set (Vec.set v i a) i b = Vec.set v i b := by
  apply Vec.ext
  intro j
  simp only [Vec.get_set]
  split <;> rfl

theorem Vec.set_self {α : Type} {n : Nat} (v : Vector α n) (i : Fin n) :
    Vec.set v i (Vec.get v i) = v := by
  apply Vec.ext
  intro j
  simp only [Vec.get_set]
  split
  · rename_i h; rw [h]
  · rfl

/-- Between transactions, a new one only empties the receive buffer. -/
theorem State.beginTransaction_of_between {s : State} {p : Client} (h : s.between p = true) :
    s.beginTransaction p = s.setCpi p { s.cpi p with framing := .receiving [] } := by
  have two : ∀ f : CpiFraming,
      (s.setFraming p f).setFraming p (.receiving [])
        = s.setCpi p { s.cpi p with framing := .receiving [] } := by
    intro f
    unfold State.setFraming
    simp [State.setCpi, State.cpi, Vec.get_set, Vec.set_set]
  unfold State.between at h
  unfold State.beginTransaction State.csRise
  cases hf : (s.cpi p).framing with
  | idle => rfl
  | receiving b => simp [hf] at h
  | responding r n => simpa using two .idle
  | done => simpa using two .idle

/-- The refusal of a frame in a new transaction. -/
theorem State.refuseFrame_of_between {s : State} {p : Client} (h : s.between p = true)
    (st : Status) (tag : Byte) :
    (s.beginTransaction p).refuseFrame p st tag = s.afterRefusal p st tag := by
  rw [State.beginTransaction_of_between h]
  simp [State.refuseFrame, State.respond, State.linkError, State.setFraming, State.raise, State.afterRefusal,
    State.afterLinkError, State.setCpi, State.cpi, State.setSupervisor, Vec.get_set, Vec.set_set,
    EventSource.only, EventSource.bit, saturatingSucc]
  by_cases hmax : (Vec.get s.cpis p).linkErrors = 255#8 <;> simp [hmax]

/-- A frame with a wrong CRC byte is refused. -/
theorem State.clientRequest_badFrame {s : State} {p : Client} (h : s.between p = true)
    (q : ClientRequest) (tag : Byte) (params : List Byte) (crc : Byte)
    (hl : params.length ≤ 16) (hc : crc ≠ goodCrc q.code tag params) :
    s.clientRequest p q tag params crc = s.afterRefusal p .badFrame tag := by
  unfold State.clientRequest State.takeFrame
  have hm : ¬ maxParams < params.length := by unfold maxParams; omega
  have hi : Frame.intact { code := q.code, tag, params, crc } = false := by
    simpa [Frame.intact, Frame.covered, goodCrc] using hc
  simp [hm, hi, State.refuseFrame_of_between h]

/-- An intact frame of the wrong length, or with a field out of range, is refused. -/
theorem State.clientRequest_badParams {s : State} {p : Client} (h : s.between p = true)
    (q : ClientRequest) (tag : Byte) (params : List Byte) (hl : params.length ≤ 16)
    (hf : ¬(params.length = q.length ∧ q.inRange params = true)) :
    s.clientRequest p q tag params (goodCrc q.code tag params)
      = s.afterRefusal p .badParams tag := by
  unfold State.clientRequest State.takeFrame
  have hm : ¬ maxParams < params.length := by unfold maxParams; omega
  have hi : Frame.intact { code := q.code, tag, params, crc := goodCrc q.code tag params }
      = true := by simp [Frame.intact, Frame.covered, goodCrc]
  simp only [hm, hi, if_false, if_true, hf, State.refuseFrame_of_between h]

/-- A frame that passes the four checks goes to the replay guard. -/
theorem State.clientRequest_guarded {s : State} {p : Client} (h : s.between p = true)
    (q : ClientRequest) (tag : Byte) (params : List Byte) (hq : q.length ≤ 16)
    (hl : params.length = q.length) (hr : q.inRange params = true) :
    s.clientRequest p q tag params (goodCrc q.code tag params)
      = (s.setCpi p { s.cpi p with framing := .receiving [] }).replayGuard p q
          { code := q.code, tag, params, crc := goodCrc q.code tag params } := by
  unfold State.clientRequest State.takeFrame
  have hm : ¬ maxParams < q.length := by unfold maxParams; omega
  have hi : Frame.intact { code := q.code, tag, params, crc := goodCrc q.code tag params }
      = true := by simp [Frame.intact, Frame.covered, goodCrc]
  simp only [hm, hi, if_false, if_true, hl, hr, and_self,
    State.beginTransaction_of_between h]

theorem keepSession_withPorts (s : State) (v : Vector Cpi 4) (g : SupervisorFraming)
    (y : Response) (p : Client) :
    (s.withPorts v g y).keepSession p = (s.keepSession p).withPorts v g y := by
  unfold State.keepSession
  have ha : (s.withPorts v g y).attached p = s.attached p := rfl
  have hs : (s.withPorts v g y).session p = s.session p := rfl
  rw [ha, hs, State.arm_withPorts]
  split <;> rfl

theorem decideRequest_withPorts {q : ClientRequest} {p : Client} {params : List Byte}
    (hP : PortFree (q.rule p params)) (s : State) (v : Vector Cpi 4) (g : SupervisorFraming)
    (y : Response) :
    (s.withPorts v g y).decideRequest p q params
      = (s.decideRequest p q params).withPorts v g y := by
  unfold State.decideRequest
  have he : (s.withPorts v g y).enabled p = s.enabled p := rfl
  rw [he, keepSession_withPorts, hP]
  split <;> rfl

/-- A fresh frame that passes the checks is executed: the owner's decision on the state as it stands,
with the answer on the port and in its replay record. -/
theorem State.clientRequest_executed {s : State} {p : Client} (h : s.between p = true)
    (q : ClientRequest) (tag : Byte) (params : List Byte) (hq : q.length ≤ 16)
    (hl : params.length = q.length) (hr : q.inRange params = true) (hf : s.fresh p tag)
    (hP : PortFree (q.rule p params)) :
    s.clientRequest p q tag params (goodCrc q.code tag params)
      = (s.decideRequest p q params).state.afterReply p q.code tag params
          (s.decideRequest p q params).status (s.decideRequest p q params).payload := by
  rw [State.clientRequest_guarded h q tag params hq hl hr]
  have hx : (s.setCpi p { s.cpi p with framing := .receiving [] }).cpi p
      = { s.cpi p with framing := .receiving [] } := by
    simp [State.setCpi, State.cpi, Vec.get_set]
  unfold State.replayGuard
  rw [hx]
  have hn : ¬(tag ≠ 0 ∧ tag = (s.cpi p).lastTag) := by
    rintro ⟨h1, h2⟩
    cases hf with
    | inl h => exact h1 h
    | inr h => exact h h2
  simp only [hn, if_false]
  unfold State.execute
  simp only [State.setCpi_eq, decideRequest_withPorts hP]
  have hports := (decideRequest_withPorts hP s s.cpis s.supervisor.framing s.supervisor.stored)
  rw [State.withPorts_self] at hports
  have hc : (s.decideRequest p q params).state.cpis = s.cpis := by
    rw [hports]; rfl
  have hg : (s.decideRequest p q params).state.supervisor.framing = s.supervisor.framing := by
    rw [hports]; rfl
  have hy : (s.decideRequest p q params).state.supervisor.stored = s.supervisor.stored := by
    rw [hports]; rfl
  unfold State.storeExchange State.afterReply
  simp only [Decision.withPorts_state, Decision.response, Decision.withPorts_status,
    Decision.withPorts_payload]
  rw [State.withPorts_cpi, State.setCpi_eq]
  simp only [State.withPorts_cpis, State.withPorts_framing, State.withPorts_stored,
    State.withPorts_withPorts, Vec.get_set, if_true, Vec.set_set]
  rw [← hg, ← hy]
  have hcp : (s.decideRequest p q params).state.cpi p = s.cpi p := by
    unfold State.cpi; rw [hc]
  rw [hc, hcp]
  simp [State.withPorts, frameBytes, Frame.bytes, Frame.covered]

/-! A write of the supervisor port -/

theorem State.beginWrite_eq (s : State) :
    ∃ y : Response, s.beginWrite = s.withPorts s.cpis (.receiving []) y := by
  unfold State.beginWrite State.endWrite
  cases s.supervisor.framing with
  | idle => exact ⟨s.supervisor.stored, rfl⟩
  | receiving b => exact ⟨_, rfl⟩
  | discarding => exact ⟨s.supervisor.stored, rfl⟩
  | sending n d => exact ⟨s.supervisor.stored, rfl⟩

/-- What a decided request leaves, when the write before it is forgotten. -/
theorem State.storeDecision_eq (d : Decision) (tag : Byte) :
    State.storeDecision d tag = d.state.afterStored tag d.status d.payload := rfl

theorem State.afterStored_withPorts (s : State) (g : SupervisorFraming) (y : Response)
    (tag : Byte) (st : Status) (payload : List Byte) :
    (s.withPorts s.cpis g y).afterStored tag st payload = s.afterStored tag st payload := rfl

/-- A refusal of the supervisor port. -/
theorem State.storeDecision_refusal (s : State) (st : Status) (tag : Byte) :
    State.storeDecision (s.beginWrite.answer st) tag = s.afterStored tag st [] := by
  obtain ⟨y, hy⟩ := s.beginWrite_eq
  rw [hy]
  rfl

theorem State.supervisorRequest_badFrame (s : State) (q : SupervisorRequest) (tag : Byte)
    (params : List Byte) (crc : Byte) (hl : params.length ≤ 16)
    (hc : crc ≠ goodCrc q.code tag params) :
    s.supervisorRequest q tag params crc = s.afterStored tag .badFrame [] := by
  unfold State.supervisorRequest State.takeSupervisorFrame
  have hm : ¬ maxParams < params.length := by unfold maxParams; omega
  have hi : Frame.intact { code := q.code, tag, params, crc } = false := by
    simpa [Frame.intact, Frame.covered, goodCrc] using hc
  simp [hm, hi, State.storeDecision_refusal]

theorem State.supervisorRequest_badParams (s : State) (q : SupervisorRequest) (tag : Byte)
    (params : List Byte) (hl : params.length ≤ 16) (hf : params.length ≠ q.length) :
    s.supervisorRequest q tag params (goodCrc q.code tag params)
      = s.afterStored tag .badParams [] := by
  unfold State.supervisorRequest State.takeSupervisorFrame
  have hm : ¬ maxParams < params.length := by unfold maxParams; omega
  have hi : Frame.intact { code := q.code, tag, params, crc := goodCrc q.code tag params }
      = true := by simp [Frame.intact, Frame.covered, goodCrc]
  simp only [hm, hi, if_false, if_true, hf, State.storeDecision_refusal]

/-- An intact frame of the right length is decided by its owner on the state as it stands, and the
response is stored. -/
theorem State.supervisorRequest_taken (s : State) (q : SupervisorRequest) (tag : Byte)
    (params : List Byte) (hq : q.length ≤ 16) (hl : params.length = q.length)
    (hP : PortFree (q.rule params)) :
    s.supervisorRequest q tag params (goodCrc q.code tag params)
      = (q.rule params s).state.afterStored tag (q.rule params s).status
          (q.rule params s).payload := by
  unfold State.supervisorRequest State.takeSupervisorFrame
  have hm : ¬ maxParams < q.length := by unfold maxParams; omega
  have hi : Frame.intact { code := q.code, tag, params, crc := goodCrc q.code tag params }
      = true := by simp [Frame.intact, Frame.covered, goodCrc]
  simp only [hm, hi, if_false, if_true, hl]
  obtain ⟨y, hy⟩ := s.beginWrite_eq
  rw [hy, hP, State.storeDecision_eq]
  obtain ⟨hc, -, -⟩ := hP.ports s
  rw [← hc]
  rfl

end Sys2Proof.Machine
end

