-- ==== Sys2Proof/Laws/Rules.lean ====
section
/-! SUPPORT. The owners' rules neither read nor write the ports; STATUS and INSPECT CLIENT, which read
the link error count, and CLEAR ALL, which clears the replay records, are not among them. -/

namespace Sys2Proof.Machine

/-! How rules are put together -/

theorem PortFree.withResource {c : Client} {r : Byte} {f : State → Res → Decision}
    (h : ∀ i, PortFree fun s => f s i) : PortFree fun s => s.withResource c r (f s) := by
  intro s v g y
  show (s.withPorts v g y).withResource c r (f (s.withPorts v g y))
    = (s.withResource c r (f s)).withPorts v g y
  unfold State.withResource
  have ha : (s.withPorts v g y).attached c = s.attached c := rfl
  rw [ha]
  cases s.attached c with
  | false => rfl
  | true => cases numberBelow 64 r with
    | none => rfl
    | some i => exact h i s v g y

theorem PortFree.withNumber {r : Byte} {f : State → Res → Decision}
    (h : ∀ i, PortFree fun s => f s i) : PortFree fun s => s.withNumber r (f s) := by
  intro s v g y
  show (s.withPorts v g y).withNumber r (f (s.withPorts v g y))
    = (s.withNumber r (f s)).withPorts v g y
  unfold State.withNumber
  cases numberBelow 64 r with
  | none => rfl
  | some i => exact h i s v g y

theorem PortFree.withClient {c : Byte} {f : State → Client → Decision}
    (h : ∀ i, PortFree fun s => f s i) : PortFree fun s => s.withClient c (f s) := by
  intro s v g y
  show (s.withPorts v g y).withClient c (f (s.withPorts v g y))
    = (s.withClient c (f s)).withPorts v g y
  unfold State.withClient
  cases numberBelow 4 c with
  | none => rfl
  | some i => exact h i s v g y

theorem PortFree.checked {l : State → List (Bool × Status)} {d : State → Decision}
    (hl : ∀ s v g y, l (State.withPorts s v g y) = l s) (h : PortFree d) :
    PortFree fun s => s.checked (l s) (d s) := by
  intro s v g y
  show (s.withPorts v g y).checked (l (s.withPorts v g y)) (d (s.withPorts v g y))
    = (s.checked (l s) (d s)).withPorts v g y
  rw [hl, h]
  unfold State.checked
  cases firstFailing (l s) <;> rfl

theorem PortFree.ite {b : State → Bool} {d e : State → Decision}
    (hb : ∀ s v g y, b (State.withPorts s v g y) = b s) (hd : PortFree d) (he : PortFree e) :
    PortFree fun s => if b s = true then d s else e s := by
  intro s v g y
  show (if b (s.withPorts v g y) = true then d (s.withPorts v g y) else e (s.withPorts v g y))
    = (if b s = true then d s else e s).withPorts v g y
  rw [hb, hd, he]
  split <;> rfl

/-! The client rules -/

theorem portFree_grantNow (r : Res) (c : Client) (m : Mode) (hold : Ticks) :
    PortFree fun s => s.grantNow r c m hold := by
  intro s v g y
  show (s.withPorts v g y).grantNow r c m hold = (s.grantNow r c m hold).withPorts v g y
  unfold State.grantNow
  rw [State.grant_withPorts]
  rfl

theorem waitFor_withPorts (s : State) (v : Vector Cpi 4) (g : SupervisorFraming) (y : Response)
    (e : WaitEntry) (wait : Ticks) (place : PoolIx → List PoolIx) (position : Nat) :
    (s.withPorts v g y).waitFor e wait place position
      = (s.waitFor e wait place position).withPorts v g y := by
  unfold State.waitFor
  have hf : (s.withPorts v g y).freeIndex = s.freeIndex := rfl
  rw [hf]
  split
  · rfl
  · cases s.freeIndex with
    | none => rfl
    | some i =>
      show ((((s.withPorts v g y).allocate i e (place i) wait).grantRule e.resource).reply
          .queued _) = _
      rw [State.allocate_withPorts, State.grantRule_withPorts]
      rfl

theorem portFree_claim (c : Client) (params : List Byte) : PortFree (claimRule c params) := by
  unfold claimRule
  split
  · split
    · rename_i m _
      refine PortFree.withResource fun r => ?_
      refine PortFree.checked (fun _ _ _ _ => rfl) ?_
      refine PortFree.ite (fun _ _ _ _ => rfl) (portFree_grantNow r c m _) ?_
      exact fun s v g y => waitFor_withPorts s v g y _ _ _ _
    · exact portFree_answer _
  · exact portFree_answer _

theorem portFree_renew (c : Client) (params : List Byte) : PortFree (renewRule c params) := by
  unfold renewRule
  split
  · refine PortFree.withResource fun r => ?_
    refine PortFree.checked (fun _ _ _ _ => rfl) fun s v g y => ?_
    show ((s.withPorts v g y).arm _ _).reply _ _ = _
    rw [State.arm_withPorts]
    rfl
  · exact portFree_answer _

theorem portFree_release (c : Client) (params : List Byte) :
    PortFree (releaseRule c params) := by
  unfold releaseRule
  split
  · refine PortFree.withResource fun r => ?_
    refine PortFree.checked (fun _ _ _ _ => rfl) fun s v g y => ?_
    show (((s.withPorts v g y).removeUpgrade r c).endLease r c false).reply _ _ = _
    rw [State.removeUpgrade_withPorts, State.endLease_withPorts]
    rfl
  · exact portFree_answer _

theorem portFree_downgrade (c : Client) (params : List Byte) :
    PortFree (downgradeRule c params) := by
  unfold downgradeRule
  split
  · refine PortFree.withResource fun r => ?_
    refine PortFree.checked (fun _ _ _ _ => rfl) fun s v g y => ?_
    have e : ∀ t : State, (t.withPorts v g y).setRecord r
          { (t.withPorts v g y).record r with heldMode := some .shared }
        = (t.setRecord r { t.record r with heldMode := some .shared }).withPorts v g y :=
      fun _ => rfl
    show ((((s.withPorts v g y).setRecord r
      { (s.withPorts v g y).record r with heldMode := some .shared }).report r c).grantRule
        r).answer .ok = _
    rw [e, State.report_withPorts, State.grantRule_withPorts]
    rfl
  · exact portFree_answer _

theorem portFree_upgrade (c : Client) (params : List Byte) :
    PortFree (upgradeRule c params) := by
  unfold upgradeRule
  split
  · refine PortFree.withResource fun r => ?_
    refine PortFree.checked (fun _ _ _ _ => rfl) ?_
    refine PortFree.ite (fun _ _ _ _ => rfl) (portFree_grantNow r c .exclusive _) ?_
    exact fun s v g y => waitFor_withPorts s v g y _ _ _ _
  · exact portFree_answer _

theorem portFree_withdraw (c : Client) (params : List Byte) :
    PortFree (withdrawRule c params) := by
  unfold withdrawRule
  split
  · refine PortFree.withResource fun r => fun s v g y => ?_
    have hw : (s.withPorts v g y).waitOf r c = s.waitOf r c := rfl
    dsimp only
    rw [hw]
    cases s.waitOf r c with
    | none => rfl
    | some i =>
      dsimp only
      rw [State.removeEntry_withPorts, State.grantRule_withPorts]
      rfl
  · exact portFree_answer _

theorem portFree_query (c : Client) (params : List Byte) : PortFree (queryRule c params) := by
  unfold queryRule
  split
  · refine PortFree.withResource fun r => ?_
    exact PortFree.checked (fun _ _ _ _ => rfl) fun _ _ _ _ => rfl
  · exact portFree_answer _

theorem portFree_open (c : Client) (params : List Byte) : PortFree (openRule c params) := by
  unfold openRule
  split
  · refine PortFree.checked (fun _ _ _ _ => rfl) fun s v g y => ?_
    unfold State.openNow State.arm
    dsimp only
    repeat' split
    all_goals rfl
  · exact portFree_answer _

theorem massRelease_close_withPorts (s : State) (v : Vector Cpi 4) (g : SupervisorFraming)
    (y : Response) (c : Client) :
    (s.withPorts v g y).closeNow c = (s.closeNow c).withPorts v g y := by
  unfold State.closeNow
  rw [State.disarm_withPorts, State.massRelease_withPorts]
  generalize (s.disarm (.session c)).massRelease c = t
  rfl

theorem evictNow_withPorts (s : State) (v : Vector Cpi 4) (g : SupervisorFraming)
    (y : Response) (c : Client) :
    (s.withPorts v g y).evictNow c = (s.evictNow c).withPorts v g y := by
  unfold State.evictNow
  rw [State.disarm_withPorts, State.massRelease_withPorts]
  generalize (s.disarm (.session c)).massRelease c = t
  rfl

theorem portFree_close (c : Client) (params : List Byte) : PortFree (closeRule c params) := by
  intro s v g y
  unfold closeRule
  have ha : (s.withPorts v g y).attached c = s.attached c := rfl
  rw [ha, massRelease_close_withPorts]
  split <;> rfl

theorem portFree_keepalive (c : Client) (params : List Byte) :
    PortFree (keepaliveRule c params) := by
  intro s v g y
  unfold keepaliveRule
  have ha : (s.withPorts v g y).attached c = s.attached c := rfl
  rw [ha]
  split <;> rfl

theorem portFree_fetch (c : Client) (params : List Byte) : PortFree (fetchRule c params) := by
  intro s v g y
  unfold fetchRule
  have hq : (s.withPorts v g y).noticeQueue c = s.noticeQueue c := rfl
  dsimp only
  rw [hq]
  cases (s.noticeQueue c).queue with
  | nil => rfl
  | cons n rest => cases n <;> rfl

theorem portFree_setAttention (c : Client) (params : List Byte) :
    PortFree (setAttentionRule c params) := by
  intro s v g y
  unfold setAttentionRule
  have ha : (s.withPorts v g y).attached c = s.attached c := rfl
  rw [ha]
  split
  · split <;> rfl
  · rfl

/-! The supervisor's rules -/

theorem portFree_withAttributes {params : List Byte} {f : State → Res → Attributes → Decision}
    (h : ∀ r a, PortFree fun s => f s r a) :
    PortFree fun s => s.withAttributes params (f s) := by
  intro s v g y
  show (s.withPorts v g y).withAttributes params (f (s.withPorts v g y))
    = (s.withAttributes params (f s)).withPorts v g y
  unfold State.withAttributes
  split
  · unfold State.withNumber
    split
    · split
      · exact h _ _ s v g y
      · rfl
    · rfl
  · rfl

theorem portFree_define (params : List Byte) : PortFree (defineRule params) :=
  portFree_withAttributes fun _ _ => PortFree.checked (fun _ _ _ _ => rfl) fun _ _ _ _ => rfl

theorem portFree_amend (params : List Byte) : PortFree (amendRule params) :=
  portFree_withAttributes fun _ _ => PortFree.checked (fun _ _ _ _ => rfl) fun _ _ _ _ => rfl

theorem cancelEntry_withPorts (s : State) (v : Vector Cpi 4) (g : SupervisorFraming)
    (y : Response) (i : PoolIx) :
    (s.withPorts v g y).cancelEntry i = (s.cancelEntry i).withPorts v g y := by
  unfold State.cancelEntry
  have he : (s.withPorts v g y).entry i = s.entry i := rfl
  rw [he]
  cases s.entry i with
  | none => rfl
  | some e => dsimp only; rw [State.notify_withPorts, State.removeEntry_withPorts]

theorem cancelQueue_withPorts (s : State) (v : Vector Cpi 4) (g : SupervisorFraming)
    (y : Response) (r : Res) :
    (s.withPorts v g y).cancelQueue r = (s.cancelQueue r).withPorts v g y := by
  unfold State.cancelQueue
  exact State.foldl_withPorts s v g y _ (fun t w k z i => cancelEntry_withPorts t w k z i) _

theorem cancelUpgrade_withPorts (s : State) (v : Vector Cpi 4) (g : SupervisorFraming)
    (y : Response) (r : Res) :
    (s.withPorts v g y).cancelUpgrade r = (s.cancelUpgrade r).withPorts v g y := by
  unfold State.cancelUpgrade
  have hu : (s.withPorts v g y).upgradeHead r = s.upgradeHead r := rfl
  rw [hu]
  cases s.upgradeHead r with
  | none => rfl
  | some i => exact cancelEntry_withPorts s v g y i

theorem warnHolder_withPorts (s : State) (v : Vector Cpi 4) (g : SupervisorFraming)
    (y : Response) (r : Res) (c : Client) :
    State.warnHolder r (s.withPorts v g y) c = (State.warnHolder r s c).withPorts v g y := by
  unfold State.warnHolder
  have hl : ((s.withPorts v g y).record r).lease c = (s.record r).lease c := rfl
  rw [hl]
  cases (s.record r).lease c <;> rfl

theorem revokeWithGrace_withPorts (s : State) (v : Vector Cpi 4) (g : SupervisorFraming)
    (y : Response) (r : Res) :
    (s.withPorts v g y).revokeWithGrace r = (s.revokeWithGrace r).withPorts v g y := by
  unfold State.revokeWithGrace
  have hr : ∀ t : State, (t.withPorts v g y).record r = t.record r := fun _ => rfl
  have set : ∀ (t : State) (x : Record),
      (t.withPorts v g y).setRecord r x = (t.setRecord r x).withPorts v g y := fun _ _ => rfl
  simp only [cancelUpgrade_withPorts, hr,
    State.foldl_withPorts _ v g y (State.warnHolder r)
      (fun t w k z c => warnHolder_withPorts t w k z r c),
    set, State.arm_withPorts]

theorem revokeAtOnce_withPorts (s : State) (v : Vector Cpi 4) (g : SupervisorFraming)
    (y : Response) (r : Res) :
    (s.withPorts v g y).revokeAtOnce r = (s.revokeAtOnce r).withPorts v g y := by
  unfold State.revokeAtOnce
  rw [cancelUpgrade_withPorts, State.removeHolders_withPorts, State.raise_withPorts]

theorem portFree_revoke (params : List Byte) : PortFree (revokeRule params) := by
  unfold revokeRule
  split
  · refine PortFree.withNumber fun r => ?_
    refine PortFree.checked (fun _ _ _ _ => rfl) fun s v g y => ?_
    have hr : (s.withPorts v g y).record r = s.record r := rfl
    have hu : (s.withPorts v g y).upgradeHead r = s.upgradeHead r := rfl
    rw [hr, hu, revokeAtOnce_withPorts, revokeWithGrace_withPorts]
    split <;> rfl
  · exact portFree_answer _

theorem portFree_retire (params : List Byte) : PortFree (retireRule params) := by
  unfold retireRule
  split
  · refine PortFree.withNumber fun r => ?_
    refine PortFree.checked (fun _ _ _ _ => rfl) fun s v g y => ?_
    have hr : (s.withPorts v g y).record r = s.record r := rfl
    have hq : (s.withPorts v g y).queue r = s.queue r := rfl
    have set : ∀ (t : State) (x : Record),
        (t.withPorts v g y).setRecord r x = (t.setRecord r x).withPorts v g y :=
      fun _ _ => rfl
    unfold State.retireInUse
    rw [hr, hq, cancelQueue_withPorts, set, cancelQueue_withPorts]
    split <;> rfl
  · exact portFree_answer _

theorem portFree_inspectResource (params : List Byte) :
    PortFree (inspectResourceRule params) := by
  unfold inspectResourceRule
  split
  · refine PortFree.withNumber fun r => fun s v g y => ?_
    dsimp only
    split
    · rfl
    · split <;> rfl
  · exact portFree_answer _

theorem portFree_inspectQueue (params : List Byte) : PortFree (inspectQueueRule params) := by
  unfold inspectQueueRule
  split
  · refine PortFree.withNumber fun r => fun s v g y => ?_
    dsimp only
    split <;> rfl
  · exact portFree_answer _

theorem portFree_bindGate (params : List Byte) : PortFree (bindGateRule params) := by
  unfold bindGateRule
  split
  · intro s v g y
    dsimp only
    split
    · rfl
    · unfold State.withNumber State.withClient
      split
      · split
        · split
          · exact PortFree.checked (l := fun s => [((s.gate _).isNone, .gateBound)])
              (d := fun s => s.bindNow _ _) (fun _ _ _ _ => rfl) (fun _ _ _ _ => rfl) s v g y
          · rfl
        · rfl
      · rfl
  · exact portFree_answer _

theorem portFree_unbindGate (params : List Byte) : PortFree (unbindGateRule params) := by
  unfold unbindGateRule
  split
  · intro s v g y
    dsimp only
    split <;> rfl
  · exact portFree_answer _

theorem portFree_readGates (params : List Byte) : PortFree (readGatesRule params) :=
  fun _ _ _ _ => rfl

theorem portFree_setPolicy (params : List Byte) : PortFree (setPolicyRule params) := by
  unfold setPolicyRule
  split
  · refine PortFree.withClient fun c => fun s v g y => ?_
    dsimp only
    split
    · rfl
    · split
      · unfold State.setPolicyNow
        have set : ∀ (t : State) (x : Session),
            (t.withPorts v g y).setSession c x = (t.setSession c x).withPorts v g y :=
          fun _ _ => rfl
        have hs : (s.withPorts v g y).session c = s.session c := rfl
        have ha : (s.withPorts v g y).attached c = s.attached c := rfl
        dsimp only
        rw [hs, ha, set, evictNow_withPorts]
        split <;> rfl
      · rfl
  · exact portFree_answer _

theorem portFree_evict (params : List Byte) : PortFree (evictRule params) := by
  unfold evictRule
  split
  · refine PortFree.withClient fun c => ?_
    refine PortFree.checked (fun _ _ _ _ => rfl) fun s v g y => ?_
    rw [evictNow_withPorts]
    rfl
  · exact portFree_answer _

theorem portFree_setTimebase (params : List Byte) : PortFree (setTimebaseRule params) := by
  unfold setTimebaseRule
  split
  · intro s v g y
    dsimp only
    split
    · exact PortFree.checked (l := fun s => [(s.deadlines.isEmpty, .liveDeadlines)])
        (d := fun s => ((s.setTimebase _).setRefCount 0).answer .ok) (fun _ _ _ _ => rfl)
        (fun _ _ _ _ => rfl) s v g y
    · rfl
  · exact portFree_answer _

theorem portFree_listDeadlines (params : List Byte) : PortFree (listDeadlinesRule params) := by
  unfold listDeadlinesRule
  split
  · intro s v g y
    dsimp only
    split <;> rfl
  · exact portFree_answer _

theorem portFree_readEvents (params : List Byte) : PortFree (readEventsRule params) :=
  fun _ _ _ _ => rfl

theorem portFree_ackEvents (params : List Byte) : PortFree (ackEventsRule params) := by
  unfold ackEventsRule
  split
  · intro s v g y
    dsimp only
    split <;> rfl
  · exact portFree_answer _

theorem portFree_setEventMask (params : List Byte) : PortFree (setEventMaskRule params) := by
  unfold setEventMaskRule
  split
  · intro s v g y
    dsimp only
    split <;> rfl
  · exact portFree_answer _

end Sys2Proof.Machine
end

