-- ==== Sys2Proof/Laws/Bus.lean ====
section
/-! SUPPORT. What happens on the wires byte by byte, and that a command's row is the run of its bytes:
the request rows, the BAD_LENGTH rows, CUT_TRANSACTION and INCOMPLETE are sequences of wire events. -/

namespace Sys2Proof.Machine

/-! Reading received bytes -/

theorem receive_nil : receive [] = .short := rfl
theorem receive_one (a : Byte) : receive [a] = .short := rfl
theorem receive_two (a b : Byte) : receive [a, b] = .short := rfl

/-- What has been received of a request that is still arriving was still arriving before. -/
theorem receive_short_of_append {a b : List Byte} (h : receive (a ++ b) = .short) :
    receive a = .short := by
  match a, h with
  | [], _ => rfl
  | [_], _ => rfl
  | [_, _], _ => rfl
  | code :: tag :: len :: rest, h =>
    simp only [List.cons_append, receive] at h ⊢
    split at h
    · simp at h
    · rename_i hl
      rw [if_neg hl]
      cases hd : rest.drop len.toNat with
      | nil => rfl
      | cons x y =>
        have hlen : len.toNat < rest.length := by
          have := congrArg List.length hd
          simp at this
          omega
        rw [List.drop_append_of_le_length (by omega), hd] at h
        simp at h

/-- The bytes of a frame before its CRC byte are a request still arriving. -/
theorem receive_covered (f : Frame) (h : f.params.length ≤ 16) : receive f.covered = .short := by
  have hc : (countByte f.params.length).toNat = f.params.length := by
    simp [countByte]
    omega
  have hm : ¬ maxParams < (countByte f.params.length).toNat := by
    rw [hc]; unfold maxParams; omega
  unfold Frame.covered receive
  dsimp only
  rw [if_neg hm, hc, List.drop_length]

/-- The bytes of a frame are that frame. -/
theorem receive_frame (f : Frame) (h : f.params.length ≤ 16) : receive f.bytes = .whole f := by
  have hc : (countByte f.params.length).toNat = f.params.length := by
    simp [countByte]
    omega
  have hm : ¬ maxParams < (countByte f.params.length).toNat := by
    rw [hc]; unfold maxParams; omega
  unfold Frame.bytes Frame.covered receive
  simp only [List.cons_append]
  rw [if_neg hm, hc]
  simp

/-- A length byte of 17 or more ends the reading. -/
theorem receive_badLength (code tag len : Byte) (h : maxParams < len.toNat) :
    receive [code, tag, len] = .badLength tag := by
  simp [receive, h]

/-! A client port -/

theorem State.cpi_setFraming (s : State) (p : Client) (f : CpiFraming) :
    (s.setFraming p f).cpi p = { s.cpi p with framing := f } := by
  simp [State.setFraming, State.setCpi, State.cpi, Vec.get_set]

theorem State.setFraming_setFraming (s : State) (p : Client) (f g : CpiFraming) :
    (s.setFraming p f).setFraming p g = s.setFraming p g := by
  unfold State.setFraming
  simp [State.setCpi, State.cpi, Vec.get_set, Vec.set_set]

theorem State.setFraming_self {s : State} {p : Client} {f : CpiFraming}
    (h : (s.cpi p).framing = f) : s.setFraming p f = s := by
  subst h
  unfold State.setFraming State.setCpi State.cpi
  rw [show ({ Vec.get s.cpis p with framing := (Vec.get s.cpis p).framing } : Cpi)
      = Vec.get s.cpis p from rfl, Vec.set_self]

/-- A new transaction is CS rising, if it was low, and falling. -/
theorem State.beginTransaction_eq (s : State) (p : Client) :
    s.beginTransaction p = (s.csRise p).csFall p := by
  have h : ((s.csRise p).cpi p).framing = .idle := by
    unfold State.csRise
    split <;> first | (rw [State.cpi_setFraming]) | assumption
  unfold State.beginTransaction State.csFall
  rw [h]

@[simp] theorem State.bytesArrive_nil (s : State) (p : Client) : s.bytesArrive p [] = s := rfl

@[simp] theorem State.bytesArrive_cons (s : State) (p : Client) (b : Byte) (l : List Byte) :
    s.bytesArrive p (b :: l) = (s.clockByte p b).bytesArrive p l := rfl

theorem State.bytesArrive_append (s : State) (p : Client) (l m : List Byte) :
    s.bytesArrive p (l ++ m) = (s.bytesArrive p l).bytesArrive p m := List.foldl_append

/-- Bytes that do not complete a request are stored. -/
theorem State.bytesArrive_short {s : State} {p : Client} {before arrived : List Byte}
    (hf : (s.cpi p).framing = .receiving before) (hr : receive (before ++ arrived) = .short) :
    s.bytesArrive p arrived = s.setFraming p (.receiving (before ++ arrived)) := by
  induction arrived generalizing s before with
  | nil => rw [List.append_nil, State.setFraming_self hf]; rfl
  | cons b rest ih =>
    have hr' : receive ((before ++ [b]) ++ rest) = .short := by simpa using hr
    have h1 : s.clockByte p b = s.setFraming p (.receiving (before ++ [b])) := by
      unfold State.clockByte
      rw [hf]
      dsimp only
      rw [receive_short_of_append hr']
    rw [State.bytesArrive_cons, h1, ih (by rw [State.cpi_setFraming]) hr',
      State.setFraming_setFraming]
    simp

/-- In RESPONDING each clocked byte sends one; after the last the port is DONE (R150). -/
theorem State.bytesArrive_responding {s : State} {p : Client} {r : Response} {sent : Nat}
    (arrived : List Byte) (hf : (s.cpi p).framing = .responding r sent)
    (hs : sent < r.onSo.length) :
    s.bytesArrive p arrived
      = s.setFraming p (CpiFraming.afterSending r (sent + arrived.length)) := by
  induction arrived generalizing s sent with
  | nil =>
    have : CpiFraming.afterSending r (sent + 0) = .responding r sent := by
      simp [CpiFraming.afterSending, hs]
    rw [List.length_nil, this, State.setFraming_self hf]
    rfl
  | cons b rest ih =>
    have h1 : s.clockByte p b = s.setFraming p (CpiFraming.afterSending r (sent + 1)) := by
      unfold State.clockByte
      rw [hf]
    rw [State.bytesArrive_cons, h1]
    by_cases hn : sent + 1 < r.onSo.length
    · have ha : CpiFraming.afterSending r (sent + 1) = .responding r (sent + 1) := by
        simp [CpiFraming.afterSending, hn]
      rw [ha, ih (by rw [State.cpi_setFraming]) hn, State.setFraming_setFraming,
        List.length_cons]
      congr 2
      omega
    · have ha : CpiFraming.afterSending r (sent + 1) = .done := by
        simp [CpiFraming.afterSending, hn]
      have hb : CpiFraming.afterSending r (sent + (b :: rest).length) = .done := by
        simp only [CpiFraming.afterSending, List.length_cons]
        rw [if_neg (by omega)]
      rw [ha, hb]
      have hd : ∀ (l : List Byte) (t : State), (t.cpi p).framing = .done →
          t.bytesArrive p l = t := by
        intro l t ht
        induction l with
        | nil => rfl
        | cons x y ihl =>
          have : t.clockByte p x = t := by unfold State.clockByte; rw [ht]
          rw [State.bytesArrive_cons, this, ihl]
      exact hd rest _ (by rw [State.cpi_setFraming])

/-- The rule neither reads nor writes the framing of the port it serves. -/
def FramingFree (p : Client) (rule : State → Decision) : Prop :=
  ∀ (s : State) (f : CpiFraming),
    rule (s.setFraming p f) = { rule s with state := (rule s).state.setFraming p f }

theorem State.setFraming_eq (s : State) (p : Client) (f : CpiFraming) :
    s.setFraming p f
      = s.withPorts (Vec.set s.cpis p { s.cpi p with framing := f }) s.supervisor.framing
          s.supervisor.stored := rfl

theorem PortFree.framingFree {rule : State → Decision} (h : PortFree rule) (p : Client) :
    FramingFree p rule := by
  intro s f
  obtain ⟨hc, hg, hy⟩ := h.ports s
  rw [State.setFraming_eq, h, State.setFraming_eq]
  unfold Decision.withPorts
  rw [hc, hg, hy]
  have : (rule s).state.cpi p = s.cpi p := by unfold State.cpi; rw [hc]
  rw [this]

/-- Every client request's rule leaves the framing of its port to the port. -/
theorem clientCatalogue_framingFree {q : ClientRequest} (hq : q ∈ clientCatalogue) (p : Client)
    (params : List Byte) : FramingFree p (q.rule p params) := by
  simp only [clientCatalogue, List.mem_cons, List.not_mem_nil, or_false] at hq
  rcases hq with rfl | rfl | rfl | rfl | rfl | rfl | rfl | rfl | rfl | rfl | rfl | rfl | rfl
  · intro s f
    have h : (s.setFraming p f).statusBytes p = s.statusBytes p := by
      unfold State.statusBytes
      rw [State.cpi_setFraming]
      rfl
    show (s.setFraming p f).reply .ok ((s.setFraming p f).statusBytes p) = _
    rw [h]
    rfl
  · exact (portFree_open p params).framingFree p
  · exact (portFree_close p params).framingFree p
  · exact (portFree_keepalive p params).framingFree p
  · exact (portFree_claim p params).framingFree p
  · exact (portFree_renew p params).framingFree p
  · exact (portFree_release p params).framingFree p
  · exact (portFree_downgrade p params).framingFree p
  · exact (portFree_upgrade p params).framingFree p
  · exact (portFree_withdraw p params).framingFree p
  · exact (portFree_query p params).framingFree p
  · exact (portFree_fetch p params).framingFree p
  · exact (portFree_setAttention p params).framingFree p

theorem State.refuseFrame_setFraming (s : State) (p : Client) (f : CpiFraming) (st : Status)
    (tag : Byte) : (s.setFraming p f).refuseFrame p st tag = s.refuseFrame p st tag := by
  simp [State.refuseFrame, State.respond, State.linkError, State.raise, State.setFraming,
    State.setCpi, State.cpi, State.setSupervisor, Vec.get_set, Vec.set_set]

theorem State.respond_setFraming (s : State) (p : Client) (f : CpiFraming) (r : Response) :
    (s.setFraming p f).respond p r = s.respond p r := State.setFraming_setFraming _ _ _ _

theorem State.decideRequest_setFraming (s : State) (p : Client) (q : ClientRequest)
    (params : List Byte) (hq : FramingFree p (q.rule p params)) (f : CpiFraming) :
    (s.setFraming p f).decideRequest p q params
      = { s.decideRequest p q params with
          state := (s.decideRequest p q params).state.setFraming p f } := by
  unfold State.decideRequest
  have he : (s.setFraming p f).enabled p = s.enabled p := rfl
  have hk : (s.setFraming p f).keepSession p = (s.keepSession p).setFraming p f := by
    rw [State.setFraming_eq, keepSession_withPorts, State.setFraming_eq]
    have hc : (s.keepSession p).cpis = s.cpis := by
      unfold State.keepSession State.arm
      split
      · split <;> rfl
      · rfl
    have hg : (s.keepSession p).supervisor = s.supervisor := by
      unfold State.keepSession State.arm
      split
      · split <;> rfl
      · rfl
    have hx : (s.keepSession p).cpi p = s.cpi p := by unfold State.cpi; rw [hc]
    rw [hc, hg, hx]
  rw [he, hk, hq]
  split <;> rfl

/-- Taking a frame does not depend on the receive buffer it was read from. -/
theorem State.takeFrame_setFraming (s : State) (p : Client) (q : Option ClientRequest)
    (hq : ∀ x ∈ q, ∀ params, FramingFree p (x.rule p params)) (f : CpiFraming) (x : Frame) :
    (s.setFraming p f).takeFrame p q x = s.takeFrame p q x := by
  unfold State.takeFrame
  simp only [State.refuseFrame_setFraming]
  split
  · cases q with
    | none => rfl
    | some q =>
      dsimp only
      split
      · unfold State.replayGuard
        rw [State.cpi_setFraming]
        simp only [State.respond_setFraming]
        split
        · rfl
        · unfold State.execute
          rw [State.decideRequest_setFraming s p q x.params (hq q rfl x.params)]
          unfold State.storeExchange
          simp [State.setFraming, State.setCpi, State.cpi, Vec.get_set,
            Vec.set_set, Decision.response]
      · rfl
  · rfl

theorem clientRequestOf_mem {code : Byte} {q : ClientRequest} (h : clientRequestOf code = some q) :
    q ∈ clientCatalogue := List.mem_of_find?_eq_some h

/-- The bytes of a frame that follow the falling edge of CS take its request at the last of them. -/
theorem State.bytesArrive_frame {s : State} {p : Client} (f : Frame) (hl : f.params.length ≤ 16)
    (hf : (s.cpi p).framing = .receiving []) :
    s.bytesArrive p f.bytes = s.takeFrame p (clientRequestOf f.code) f := by
  have h1 := State.bytesArrive_short (arrived := f.covered) hf (receive_covered f hl)
  have h2 : receive (f.covered ++ [f.crc]) = .whole f := receive_frame f hl
  show s.bytesArrive p (f.covered ++ [f.crc]) = _
  rw [State.bytesArrive_append, h1]
  show ((s.setFraming p (.receiving f.covered)).clockByte p f.crc) = _
  unfold State.clockByte
  rw [State.cpi_setFraming]
  dsimp only
  rw [h2]
  exact State.takeFrame_setFraming s p _
    (fun x hx params => clientCatalogue_framingFree (clientRequestOf_mem hx) p params) _ f

theorem State.framing_beginTransaction (s : State) (p : Client) :
    ((s.beginTransaction p).cpi p).framing = .receiving [] := by
  unfold State.beginTransaction
  rw [State.cpi_setFraming]

/-- A client request's row is CS rising if it was low, CS falling, and the bytes of its frame. -/
theorem State.clientRequest_asBytes (s : State) (p : Client) (q : ClientRequest)
    (hq : clientRequestOf q.code = some q) (tag : Byte) (params : List Byte) (crc : Byte)
    (hl : params.length ≤ 16) :
    s.clientRequest p q tag params crc
      = ((s.csRise p).csFall p).bytesArrive p
          (Frame.bytes { code := q.code, tag, params, crc }) := by
  have hm : ¬ maxParams < params.length := by unfold maxParams; omega
  rw [← State.beginTransaction_eq,
    State.bytesArrive_frame { code := q.code, tag, params, crc } hl
      (s.framing_beginTransaction p), hq]
  unfold State.clientRequest
  rw [if_neg hm]

/-- A length byte of 17 or more refuses the frame at its arrival (R147). -/
theorem State.bytesArrive_badLength {s : State} {p : Client} (code tag len : Byte)
    (hl : maxParams < len.toNat) (hf : (s.cpi p).framing = .receiving []) :
    s.bytesArrive p [code, tag, len] = s.refuseFrame p .badLength tag := by
  have h1 := State.bytesArrive_short (arrived := [code, tag]) hf (receive_two code tag)
  show s.bytesArrive p ([code, tag] ++ [len]) = _
  rw [State.bytesArrive_append, h1]
  show ((s.setFraming p (.receiving [code, tag])).clockByte p len) = _
  unfold State.clockByte
  rw [State.cpi_setFraming]
  dsimp only
  have h2 : receive ([code, tag] ++ [len]) = .badLength tag := receive_badLength code tag len hl
  rw [h2]
  exact State.refuseFrame_setFraming _ _ _ _ _

/-! The supervisor port -/

theorem State.setSupervisorFraming_twice (s : State) (f g : SupervisorFraming) :
    (s.setSupervisorFraming f).setSupervisorFraming g = s.setSupervisorFraming g := rfl

theorem State.setSupervisorFraming_self {s : State} {f : SupervisorFraming}
    (h : s.supervisor.framing = f) : s.setSupervisorFraming f = s := by subst h; rfl

theorem State.endWrite_address (s : State) : s.endWrite.supervisor.address = s.supervisor.address := by
  unfold State.endWrite
  split <;> rfl

/-- A write begins at a START with the port's own address and the write bit. -/
theorem State.beginWrite_eq_start (s : State) :
    s.beginWrite = s.start s.supervisor.address false := by
  simp [State.beginWrite, State.start, State.acknowledges]

@[simp] theorem State.dataArrive_nil (s : State) : s.dataArrive [] = s := rfl

@[simp] theorem State.dataArrive_cons (s : State) (b : Byte) (l : List Byte) :
    s.dataArrive (b :: l) = (s.writeByte b).dataArrive l := rfl

theorem State.dataArrive_append (s : State) (l m : List Byte) :
    s.dataArrive (l ++ m) = (s.dataArrive l).dataArrive m := List.foldl_append

/-- Data bytes that do not complete a request are stored. -/
theorem State.dataArrive_short {s : State} {before arrived : List Byte}
    (hf : s.supervisor.framing = .receiving before) (hr : receive (before ++ arrived) = .short) :
    s.dataArrive arrived = s.setSupervisorFraming (.receiving (before ++ arrived)) := by
  induction arrived generalizing s before with
  | nil => rw [List.append_nil, State.setSupervisorFraming_self hf]; rfl
  | cons b rest ih =>
    have hr' : receive ((before ++ [b]) ++ rest) = .short := by simpa using hr
    have h1 : s.writeByte b = s.setSupervisorFraming (.receiving (before ++ [b])) := by
      unfold State.writeByte
      rw [hf]
      dsimp only
      rw [receive_short_of_append hr']
    have h2 : (s.setSupervisorFraming (.receiving (before ++ [b]))).supervisor.framing
        = .receiving (before ++ [b]) := rfl
    rw [State.dataArrive_cons, h1, ih h2 hr', State.setSupervisorFraming_twice]
    simp

/-- The rule neither reads nor writes the supervisor port's framing. -/
def SupervisorFramingFree (rule : State → Decision) : Prop :=
  ∀ (s : State) (f : SupervisorFraming),
    rule (s.setSupervisorFraming f)
      = { rule s with state := (rule s).state.setSupervisorFraming f }

theorem PortFree.supervisorFramingFree {rule : State → Decision} (h : PortFree rule) :
    SupervisorFramingFree rule := by
  intro s f
  obtain ⟨hc, hg, hy⟩ := h.ports s
  have e : ∀ t : State, t.setSupervisorFraming f = t.withPorts t.cpis f t.supervisor.stored :=
    fun _ => rfl
  rw [e, h, e, hc, hy]
  rfl

/-- Every supervisor request's rule leaves the framing to the port. -/
theorem supervisorCatalogue_framingFree {q : SupervisorRequest} (hq : q ∈ supervisorCatalogue)
    (params : List Byte) : SupervisorFramingFree (q.rule params) := by
  simp only [supervisorCatalogue, List.mem_cons, List.not_mem_nil, or_false] at hq
  rcases hq with rfl | rfl | rfl | rfl | rfl | rfl | rfl | rfl | rfl | rfl | rfl | rfl | rfl | rfl
    | rfl | rfl | rfl | rfl
  · exact (portFree_define params).supervisorFramingFree
  · exact (portFree_amend params).supervisorFramingFree
  · exact (portFree_retire params).supervisorFramingFree
  · exact (portFree_inspectResource params).supervisorFramingFree
  · exact (portFree_inspectQueue params).supervisorFramingFree
  · exact (portFree_revoke params).supervisorFramingFree
  · exact (portFree_bindGate params).supervisorFramingFree
  · exact (portFree_unbindGate params).supervisorFramingFree
  · exact (portFree_readGates params).supervisorFramingFree
  · exact (portFree_setPolicy params).supervisorFramingFree
  · exact (portFree_evict params).supervisorFramingFree
  · intro s f
    show inspectClientRule params (s.setSupervisorFraming f)
      = { inspectClientRule params s with
          state := (inspectClientRule params s).state.setSupervisorFraming f }
    unfold inspectClientRule
    split
    · unfold State.withClient
      split <;> rfl
    · rfl
  · exact (portFree_setTimebase params).supervisorFramingFree
  · exact (portFree_listDeadlines params).supervisorFramingFree
  · exact (portFree_readEvents params).supervisorFramingFree
  · exact (portFree_ackEvents params).supervisorFramingFree
  · exact (portFree_setEventMask params).supervisorFramingFree
  · exact fun _ _ => rfl

/-- Taking a frame does not depend on the receive buffer it was read from. -/
theorem State.takeSupervisorFrame_setFraming (s : State) (q : Option SupervisorRequest)
    (hq : ∀ x ∈ q, ∀ params, SupervisorFramingFree (x.rule params)) (f : SupervisorFraming)
    (x : Frame) :
    (s.setSupervisorFraming f).takeSupervisorFrame q x = s.takeSupervisorFrame q x := by
  unfold State.takeSupervisorFrame
  split
  · cases q with
    | none => rfl
    | some q =>
      dsimp only
      rw [hq q rfl x.params]
      rfl
  · rfl

theorem supervisorRequestOf_mem {code : Byte} {q : SupervisorRequest}
    (h : supervisorRequestOf code = some q) : q ∈ supervisorCatalogue :=
  List.mem_of_find?_eq_some h

/-- The data bytes of a frame that follow the address byte take its request at the last of them. -/
theorem State.dataArrive_frame {s : State} (f : Frame) (hl : f.params.length ≤ 16)
    (hf : s.supervisor.framing = .receiving []) :
    s.dataArrive f.bytes = s.takeSupervisorFrame (supervisorRequestOf f.code) f := by
  have h1 := State.dataArrive_short (arrived := f.covered) hf (receive_covered f hl)
  have h2 : receive (([] ++ f.covered) ++ [f.crc]) = .whole f := receive_frame f hl
  show s.dataArrive (f.covered ++ [f.crc]) = _
  rw [State.dataArrive_append, h1]
  show ((s.setSupervisorFraming (.receiving ([] ++ f.covered))).writeByte f.crc) = _
  unfold State.writeByte
  dsimp only [State.setSupervisorFraming, State.setSupervisor]
  rw [h2]
  exact State.takeSupervisorFrame_setFraming s _
    (fun x hx params => supervisorCatalogue_framingFree (supervisorRequestOf_mem hx) params) _ f

/-- A supervisor request's row is a START with the port's own address and the write bit, and the
bytes of its frame. -/
theorem State.supervisorRequest_asBytes (s : State) (q : SupervisorRequest)
    (hq : supervisorRequestOf q.code = some q) (tag : Byte) (params : List Byte) (crc : Byte)
    (hl : params.length ≤ 16) :
    s.supervisorRequest q tag params crc
      = (s.start s.supervisor.address false).dataArrive
          (Frame.bytes { code := q.code, tag, params, crc }) := by
  have hm : ¬ maxParams < params.length := by unfold maxParams; omega
  rw [← State.beginWrite_eq_start,
    State.dataArrive_frame { code := q.code, tag, params, crc } hl rfl, hq]
  unfold State.supervisorRequest
  rw [if_neg hm]

/-- A length byte of 17 or more refuses the frame at its arrival (R162). -/
theorem State.dataArrive_badLength {s : State} (code tag len : Byte) (hl : maxParams < len.toNat)
    (hf : s.supervisor.framing = .receiving []) :
    s.dataArrive [code, tag, len] = State.storeDecision (s.answer .badLength) tag := by
  have h1 := State.dataArrive_short (arrived := [code, tag]) hf (receive_two code tag)
  show s.dataArrive ([code, tag] ++ [len]) = _
  rw [State.dataArrive_append, h1]
  show ((s.setSupervisorFraming (.receiving ([] ++ [code, tag]))).writeByte len) = _
  unfold State.writeByte
  dsimp only [State.setSupervisorFraming, State.setSupervisor]
  have h2 : receive (([] ++ [code, tag]) ++ [len]) = .badLength tag :=
    receive_badLength code tag len hl
  rw [h2]
  rfl

/-! The rows as wire events -/

/-- Wire events, one after another. -/
def State.busRun (s : State) (l : List BusEvent) : State := l.foldl State.busEvent s

/-- One transaction of a client port up to the last of its bytes. -/
def clientEvents (p : Client) (bytes : List Byte) : List BusEvent :=
  .csRise p :: .csFall p :: bytes.map (.clock p)

/-- One write transaction of the supervisor port up to the last of its bytes. -/
def writeEvents (a : BitVec 7) (bytes : List Byte) : List BusEvent :=
  .start a false :: bytes.map .write

theorem State.busRun_clock (s : State) (p : Client) (bytes : List Byte) :
    s.busRun (bytes.map (.clock p)) = s.bytesArrive p bytes := by
  unfold State.busRun State.bytesArrive
  rw [List.foldl_map]
  rfl

theorem State.busRun_write (s : State) (bytes : List Byte) :
    s.busRun (bytes.map .write) = s.dataArrive bytes := by
  unfold State.busRun State.dataArrive
  rw [List.foldl_map]
  rfl

theorem State.busRun_clientEvents (s : State) (p : Client) (bytes : List Byte) :
    s.busRun (clientEvents p bytes) = ((s.csRise p).csFall p).bytesArrive p bytes :=
  State.busRun_clock _ p bytes

theorem State.busRun_writeEvents (s : State) (a : BitVec 7) (bytes : List Byte) :
    s.busRun (writeEvents a bytes) = (s.start a false).dataArrive bytes :=
  State.busRun_write _ bytes

/-- Every client request's row is the wire events of its frame, byte by byte. -/
theorem exec_clientRow_asBus {row : ClientRow} (hr : row ∈ clientRows) (s : State) (p : Client)
    (tag : Byte) (params : List Byte) (crc : Byte) (hl : params.length ≤ 16) :
    exec (row.command p tag params crc) s
      = .next (s.busRun (clientEvents p
          (row.code :: tag :: countByte params.length :: params ++ [crc]))) := by
  rw [State.busRun_clientEvents]
  simp only [clientRows, List.mem_cons, List.not_mem_nil, or_false] at hr
  rcases hr with rfl | rfl | rfl | rfl | rfl | rfl | rfl | rfl | rfl | rfl | rfl | rfl | rfl <;>
    exact congrArg Host.Outcome.next (State.clientRequest_asBytes s p _ rfl tag params crc hl)

/-- Every supervisor request's row is the wire events of its write, byte by byte. -/
theorem exec_supervisorRow_asBus {row : SupervisorRow} (hr : row ∈ supervisorRows) (s : State)
    (tag : Byte) (params : List Byte) (crc : Byte) (hl : params.length ≤ 16) :
    exec (row.command tag params crc) s
      = .next (s.busRun (writeEvents s.supervisor.address
          (row.code :: tag :: countByte params.length :: params ++ [crc]))) := by
  rw [State.busRun_writeEvents]
  simp only [supervisorRows, List.mem_cons, List.not_mem_nil, or_false] at hr
  rcases hr with rfl | rfl | rfl | rfl | rfl | rfl | rfl | rfl | rfl | rfl | rfl | rfl | rfl | rfl
    | rfl | rfl | rfl | rfl <;>
    exact congrArg Host.Outcome.next (State.supervisorRequest_asBytes s _ rfl tag params crc hl)

/-- The row of a frame with an unknown code is the wire events of that frame. -/
theorem exec_clientUnknownRequest_asBus (s : State) (p : Client) (code tag : Byte)
    (params : List Byte) (crc : Byte) (hl : params.length ≤ 16) :
    exec (.clientUnknownRequest p code tag params crc) s
      = .next (s.busRun (clientEvents p
          (code :: tag :: countByte params.length :: params ++ [crc]))) := by
  have hm : ¬ maxParams < params.length := by unfold maxParams; omega
  rw [State.busRun_clientEvents, ← State.beginTransaction_eq]
  show execClientUnknownRequest p code tag params crc s = _
  unfold execClientUnknownRequest
  rw [if_neg hm, ← State.bytesArrive_frame { code, tag, params, crc } hl
    (s.framing_beginTransaction p)]
  rfl

theorem exec_supervisorUnknownRequest_asBus (s : State) (code tag : Byte) (params : List Byte)
    (crc : Byte) (hl : params.length ≤ 16) :
    exec (.supervisorUnknownRequest code tag params crc) s
      = .next (s.busRun (writeEvents s.supervisor.address
          (code :: tag :: countByte params.length :: params ++ [crc]))) := by
  have hm : ¬ maxParams < params.length := by unfold maxParams; omega
  rw [State.busRun_writeEvents, ← State.beginWrite_eq_start]
  show execSupervisorUnknownRequest code tag params crc s = _
  unfold execSupervisorUnknownRequest
  rw [if_neg hm, ← State.dataArrive_frame { code, tag, params, crc } hl rfl]
  rfl

/-- The rows without a whole frame are wire events as they stand. -/
theorem exec_clientBadLength_asBus (s : State) (p : Client) (code tag len : Byte) :
    exec (.clientBadLength p code tag len) s
      = .next (s.busRun (clientEvents p [code, tag, len])) := by
  rw [State.busRun_clientEvents, ← State.beginTransaction_eq]
  rfl

theorem exec_supervisorBadLength_asBus (s : State) (code tag len : Byte) :
    exec (.supervisorBadLength code tag len) s
      = .next (s.busRun (writeEvents s.supervisor.address [code, tag, len])) := by
  rw [State.busRun_writeEvents, ← State.beginWrite_eq_start]
  rfl

theorem exec_cutTransaction_asBus (s : State) (p : Client) (arrived : List Byte) :
    exec (.cutTransaction p arrived) s
      = .next (s.busRun ((.csFall p :: arrived.map (.clock p)) ++ [.csRise p])) := by
  show execCutTransaction p arrived s = _
  unfold execCutTransaction
  have h := State.busRun_clock (s.csFall p) p arrived
  unfold State.busRun at h ⊢
  rw [List.foldl_append, List.foldl_cons]
  show _ = Host.Outcome.next (State.csRise (List.foldl State.busEvent (s.csFall p)
    (arrived.map (.clock p))) p)
  rw [h]

/-- A write that ends is a START under the own address, its data bytes, and what ends it. -/
theorem exec_incomplete_asBus (s : State) (arrived : List Byte) (other : BitVec 7)
    (read : Bool) (hr : receive arrived = .short) (ho : other ≠ s.supervisor.address) :
    exec (.incomplete arrived .stop) s
        = .next (s.busRun (writeEvents s.supervisor.address arrived ++ [.stop]))
      ∧ exec (.incomplete arrived .restartOther) s
        = .next (s.busRun (writeEvents s.supervisor.address arrived ++ [.start other read]))
      ∧ exec (.incomplete arrived .restartWrite) s
        = .next (s.busRun (writeEvents s.supervisor.address arrived
            ++ [.start s.supervisor.address false]))
      ∧ exec (.incomplete arrived .restartRead) s
        = .next (s.busRun (writeEvents s.supervisor.address arrived
            ++ [.start s.supervisor.address true])) := by
  have ht : (s.start s.supervisor.address false).dataArrive arrived
      = s.endWrite.setSupervisorFraming (.receiving arrived) := by
    rw [← State.beginWrite_eq_start]
    exact State.dataArrive_short (before := []) rfl hr
  have hb : s.beginWrite.dataArrive arrived
      = s.endWrite.setSupervisorFraming (.receiving arrived) := by
    rw [State.beginWrite_eq_start]; exact ht
  have run : ∀ e : BusEvent, s.busRun (writeEvents s.supervisor.address arrived ++ [e])
      = (s.endWrite.setSupervisorFraming (.receiving arrived)).busEvent e := by
    intro e
    rw [← ht, ← State.busRun_writeEvents]
    unfold State.busRun
    rw [List.foldl_append]
    rfl
  have ex : ∀ ending : WriteEnd, exec (.incomplete arrived ending) s
      = .next ((s.endWrite.setSupervisorFraming (.receiving arrived)).endWrite.setSupervisorFraming
          (framingAfter ending)) := by
    intro ending
    show execIncomplete arrived ending s = _
    unfold execIncomplete
    rw [hb]
  have own : ∀ a : BitVec 7,
      (s.endWrite.setSupervisorFraming (.receiving arrived)).acknowledges a
        = (a == s.supervisor.address) := by
    intro a
    show (a == s.endWrite.supervisor.address) = _
    rw [State.endWrite_address]
  have ho' : (other == s.supervisor.address) = false := by simpa using ho
  simp only [run, ex, State.busEvent, State.start, State.stop, own, ho', beq_self_eq_true]
  exact ⟨rfl, rfl, rfl, rfl⟩

/-! Reads of the supervisor port (R165) -/

/-- After `n` acknowledged bytes the port stands at byte `n`. -/
theorem State.busRun_read {s : State} {k : Nat} (n : Nat)
    (hf : s.supervisor.framing = .sending k true) :
    s.busRun (List.replicate n (.read true)) = s.setSupervisorFraming (.sending (k + n) true) := by
  induction n generalizing s k with
  | zero => exact (State.setSupervisorFraming_self hf).symm
  | succ n ih =>
    have h1 : s.busEvent (.read true) = s.setSupervisorFraming (.sending (k + 1) true) := by
      show s.sendByte true = _
      unfold State.sendByte
      rw [hf]
    show (s.busEvent (.read true)).busRun (List.replicate n (.read true)) = _
    rw [h1, ih (k := k + 1) rfl, State.setSupervisorFraming_twice]
    congr 2
    omega

/-- A read under the own address sends the stored response from its first byte, 0xFF past its CRC
byte, and releases SDA after a byte that is not acknowledged; nothing but the framing changes. -/
theorem State.read_transaction (s : State) (n : Nat)
    (hf : ∀ before, s.supervisor.framing ≠ .receiving before) :
    s.busRun (.start s.supervisor.address true :: List.replicate n (.read true))
        = s.setSupervisorFraming (.sending n true)
      ∧ (s.setSupervisorFraming (.sending n true)).sda
        = some (s.supervisor.stored.bytes.getD n 0xFF)
      ∧ (s.setSupervisorFraming (.sending n true)).busEvent (.read false)
        = s.setSupervisorFraming (.sending (n + 1) false)
      ∧ (s.setSupervisorFraming (.sending (n + 1) false)).sda = none := by
  have he : s.endWrite = s := by
    unfold State.endWrite
    split
    · rename_i b hb; exact absurd hb (hf b)
    · rfl
    · rfl
    · rfl
  refine ⟨?_, rfl, rfl, rfl⟩
  have h1 : s.busEvent (.start s.supervisor.address true)
      = s.setSupervisorFraming (.sending 0 true) := by
    show s.start s.supervisor.address true = _
    simp [State.start, State.acknowledges, he]
  show (s.busEvent (.start s.supervisor.address true)).busRun (List.replicate n (.read true)) = _
  rw [h1, State.busRun_read (k := 0) n rfl, State.setSupervisorFraming_twice, Nat.zero_add]

end Sys2Proof.Machine
end

