-- ==== Sys2Proof/Laws/Deadlines.lean ====
section
/-! SUPPORT. What arming and disarming do to the deadline list. -/

namespace Sys2Proof.Machine

theorem mem_withoutDeadline {id : DeadlineId} {l : List Deadline} {d : Deadline} :
    d ∈ withoutDeadline id l ↔ d ∈ l ∧ d.id ≠ id := by
  simp [withoutDeadline]

theorem insertDeadline_perm (now : Clock) (d : Deadline) (l : List Deadline) :
    (insertDeadline now d l).Perm (d :: l) := by
  induction l with
  | nil => exact List.Perm.refl _
  | cons e rest ih =>
    unfold insertDeadline
    split
    · exact (ih.cons e).trans (List.Perm.swap d e rest)
    · exact List.Perm.refl _

theorem mem_insertDeadline {now : Clock} {d e : Deadline} {l : List Deadline} :
    e ∈ insertDeadline now d l ↔ e = d ∨ e ∈ l := by
  rw [(insertDeadline_perm now d l).mem_iff, List.mem_cons]

/-- Inserting keeps the order of ticks remaining. -/
theorem insertDeadline_pairwise {now : Clock} {d : Deadline} {l : List Deadline}
    (h : l.Pairwise fun a b => (a.remaining now).toNat ≤ (b.remaining now).toNat) :
    (insertDeadline now d l).Pairwise
      fun a b => (a.remaining now).toNat ≤ (b.remaining now).toNat := by
  induction l with
  | nil => simp [insertDeadline]
  | cons e rest ih =>
    obtain ⟨he, hrest⟩ := List.pairwise_cons.mp h
    unfold insertDeadline
    split
    · rename_i hle
      refine List.pairwise_cons.mpr ⟨fun x hx => ?_, ih hrest⟩
      rcases mem_insertDeadline.mp hx with rfl | hx
      · exact hle
      · exact he x hx
    · rename_i hlt
      refine List.pairwise_cons.mpr ⟨fun x hx => ?_, h⟩
      rcases List.mem_cons.mp hx with rfl | hx
      · omega
      · have := he x hx
        omega

/-- An inserted entry that a filter drops leaves what the filter keeps. -/
theorem filter_insertDeadline {now : Clock} {d : Deadline} {l : List Deadline}
    {p : Deadline → Bool} (h : p d = false) : (insertDeadline now d l).filter p = l.filter p := by
  induction l with
  | nil => simp [insertDeadline, h]
  | cons e rest ih =>
    unfold insertDeadline
    split
    · simp [List.filter_cons, ih]
    · simp [h]

theorem filter_withoutDeadline {id : DeadlineId} {l : List Deadline} {p : Deadline → Bool}
    (h : ∀ d, d.id = id → p d = false) : (withoutDeadline id l).filter p = l.filter p := by
  unfold withoutDeadline
  rw [List.filter_filter]
  apply List.filter_congr
  intro d _
  by_cases hd : d.id = id
  · simp [h d hd]
  · simp [hd]

/-- The list after an arming, in the statements' terms. -/
theorem State.arm_eq (s : State) (id : DeadlineId) (n : Ticks) :
    s.arm id n = { s with deadlines := armedList s.clock id n s.deadlines } := by
  unfold State.arm armedList
  split <;> rfl

theorem State.disarm_eq (s : State) (id : DeadlineId) :
    s.disarm id = { s with deadlines := withoutDeadline id s.deadlines } := rfl

theorem mem_armedList {now : Clock} {id : DeadlineId} {n : Ticks} {l : List Deadline}
    {d : Deadline} :
    d ∈ armedList now id n l
      ↔ (n ≠ 0 ∧ d = { id, due := now + n.setWidth 32 }) ∨ (d ∈ l ∧ d.id ≠ id) := by
  unfold armedList
  split
  · rename_i h
    simp [mem_withoutDeadline, h]
  · rename_i h
    have hn : n ≠ 0 := h
    simp only [mem_insertDeadline, mem_withoutDeadline, hn, ne_eq, not_false_eq_true, true_and]

/-- A filter that drops the owner's entries sees no arming. -/
theorem filter_armedList {now : Clock} {id : DeadlineId} {n : Ticks} {l : List Deadline}
    {p : Deadline → Bool} (h : ∀ d : Deadline, d.id = id → p d = false) :
    (armedList now id n l).filter p = l.filter p := by
  unfold armedList
  split
  · exact filter_withoutDeadline h
  · rw [filter_insertDeadline (h _ rfl), filter_withoutDeadline h]

theorem find_withoutDeadline_self (id : DeadlineId) (l : List Deadline) :
    (withoutDeadline id l).find? (fun d => d.id == id) = none := by
  simp [withoutDeadline]

theorem find_withoutDeadline {id id' : DeadlineId} (h : id' ≠ id) (l : List Deadline) :
    (withoutDeadline id l).find? (fun d => d.id == id') = l.find? fun d => d.id == id' := by
  induction l with
  | nil => rfl
  | cons e rest ih =>
    unfold withoutDeadline at ih ⊢
    by_cases he : e.id = id
    · have hk : (e.id != id) = false := by simp [he]
      have hne : (e.id == id') = false := by
        rw [he]
        simpa using fun hh => h hh.symm
      rw [List.filter_cons, hk, List.find?_cons, hne]
      exact ih
    · have hk : (e.id != id) = true := by simpa using he
      rw [List.filter_cons, hk, if_pos rfl, List.find?_cons, List.find?_cons, ih]

theorem find_insertDeadline {now : Clock} {d : Deadline} {id : DeadlineId} {l : List Deadline}
    (h : d.id ≠ id) :
    (insertDeadline now d l).find? (fun e => e.id == id) = l.find? fun e => e.id == id := by
  induction l with
  | nil => simp [insertDeadline, h]
  | cons e rest ih =>
    unfold insertDeadline
    split
    · simp [List.find?_cons, ih]
    · simp [h]

theorem find_insertDeadline_self {now : Clock} {d : Deadline} {l : List Deadline}
    (h : ∀ e ∈ l, e.id ≠ d.id) :
    (insertDeadline now d l).find? (fun e => e.id == d.id) = some d := by
  induction l with
  | nil => simp [insertDeadline]
  | cons e rest ih =>
    have he : e.id ≠ d.id := h e List.mem_cons_self
    have ih := ih fun x hx => h x (List.mem_cons_of_mem _ hx)
    unfold insertDeadline
    split
    · simp [he, ih]
    · simp

theorem State.deadlineOf_disarm_self (s : State) (id : DeadlineId) :
    (s.disarm id).deadlineOf id = none := find_withoutDeadline_self id s.deadlines

theorem State.deadlineOf_disarm (s : State) {id id' : DeadlineId} (h : id' ≠ id) :
    (s.disarm id).deadlineOf id' = s.deadlineOf id' := find_withoutDeadline h s.deadlines

theorem State.deadlineOf_arm_self (s : State) (id : DeadlineId) {n : Ticks} (h : n ≠ 0) :
    (s.arm id n).deadlineOf id = some { id, due := s.clock + n.setWidth 32 } := by
  unfold State.arm
  rw [if_neg h]
  exact find_insertDeadline_self (d := { id, due := s.clock + n.setWidth 32 })
    fun e he => (mem_withoutDeadline.mp he).2

theorem State.deadlineOf_arm (s : State) {id id' : DeadlineId} (n : Ticks) (h : id' ≠ id) :
    (s.arm id n).deadlineOf id' = s.deadlineOf id' := by
  unfold State.arm
  split
  · exact s.deadlineOf_disarm h
  · exact (find_insertDeadline (fun e => h e.symm)).trans (find_withoutDeadline h _)

theorem State.armed_disarm_self (s : State) (id : DeadlineId) :
    (s.disarm id).armed id = false := by
  unfold State.armed
  rw [s.deadlineOf_disarm_self]
  rfl

/-- Disarming what is not armed has no effect (R74). -/
theorem State.disarm_of_not_armed {s : State} {id : DeadlineId} (h : s.armed id = false) :
    s.disarm id = s := by
  have : withoutDeadline id s.deadlines = s.deadlines := by
    unfold withoutDeadline
    rw [List.filter_eq_self]
    intro d hd
    simp only [State.armed, State.deadlineOf, Option.isSome_eq_false_iff, Option.isNone_iff_eq_none,
      List.find?_eq_none] at h
    have := h d hd
    simpa using this
  unfold State.disarm State.setDeadlines
  rw [this]

/-- What an armed deadline's expiry does, and that one not armed has none (R77, R78). -/
theorem State.expire_of_armed {s : State} {id : DeadlineId} (h : s.armed id = true) :
    s.expire id = (s.disarm id).deliver id := by
  simp [State.expire, h]

theorem State.expire_of_not_armed {s : State} {id : DeadlineId} (h : s.armed id = false) :
    s.expire id = s := by
  simp [State.expire, h]

end Sys2Proof.Machine
end

