-- ==== Sys2Proof/Laws/Leases.lean ====
section
/-! SUPPORT. What the operations on leases and wait entries leave alone: the frame of each, over the
whole state and over the other resources. -/

namespace Sys2Proof.Machine

/-! The frame over the whole state -/

/-- What no operation on leases changes. -/
structure LeaseFrame (s t : State) : Prop where
  outside : s.sameOutside t
  sessions : ∀ c : Client, s.sameSession t c
  cpis : t.cpis = s.cpis
  framing : t.supervisor.framing = s.supervisor.framing
  stored : t.supervisor.stored = s.supervisor.stored

theorem LeaseFrame.refl (s : State) : LeaseFrame s s :=
  ⟨⟨rfl, rfl, rfl, rfl, rfl, rfl, fun _ => rfl, rfl, rfl, by simp⟩, fun _ => ⟨rfl, rfl, rfl, rfl⟩, rfl,
    rfl, rfl⟩

theorem LeaseFrame.trans {s t u : State} (h : LeaseFrame s t) (k : LeaseFrame t u) :
    LeaseFrame s u := by
  obtain ⟨⟨h1, h2, h3, h4, h5, hb, h6, h7, h8, h9⟩, h10, h11, h12, h13⟩ := h
  obtain ⟨⟨k1, k2, k3, k4, k5, kb, k6, k7, k8, k9⟩, k10, k11, k12, k13⟩ := k
  refine ⟨⟨k1.trans h1, k2.trans h2, k3.trans h3, k4.trans h4, k5.trans h5, kb.trans hb,
    fun c => (k6 c).trans (h6 c), k7.trans h7, k8.trans h8, ?_⟩, fun c => ?_, k11.trans h11,
    k12.trans h12, k13.trans h13⟩
  · calc s.supervisor.events &&& u.supervisor.events
        = (s.supervisor.events &&& t.supervisor.events) &&& u.supervisor.events := by rw [h9]
      _ = s.supervisor.events &&& (t.supervisor.events &&& u.supervisor.events) :=
          BitVec.and_assoc _ _ _
      _ = s.supervisor.events := by rw [k9, h9]
  · obtain ⟨a1, a2, a3, a4⟩ := h10 c
    obtain ⟨b1, b2, b3, b4⟩ := k10 c
    exact ⟨b1.trans a1, b2.trans a2, b3.trans a3, b4.trans a4⟩

theorem LeaseFrame.foldl {α : Type} {f : State → α → State} (h : ∀ t a, LeaseFrame t (f t a))
    (l : List α) (s : State) : LeaseFrame s (l.foldl f s) := by
  induction l generalizing s with
  | nil => exact LeaseFrame.refl s
  | cons a rest ih => exact (h s a).trans (ih (f s a))

section
variable (s : State)

theorem State.setRecord_frame (r : Res) (x : Record) : LeaseFrame s (s.setRecord r x) :=
  ⟨⟨rfl, rfl, rfl, rfl, rfl, rfl, fun _ => rfl, rfl, rfl, by simp [State.setRecord]⟩,
    fun _ => ⟨rfl, rfl, rfl, rfl⟩, rfl, rfl, rfl⟩

theorem State.setNextToken_frame (t : Token) : LeaseFrame s (s.setNextToken t) :=
  ⟨⟨rfl, rfl, rfl, rfl, rfl, rfl, fun _ => rfl, rfl, rfl, by simp [State.setNextToken]⟩,
    fun _ => ⟨rfl, rfl, rfl, rfl⟩, rfl, rfl, rfl⟩

theorem State.setEntry_frame (i : PoolIx) (e : Option WaitEntry) :
    LeaseFrame s (s.setEntry i e) :=
  ⟨⟨rfl, rfl, rfl, rfl, rfl, rfl, fun _ => rfl, rfl, rfl, by simp [State.setEntry]⟩,
    fun _ => ⟨rfl, rfl, rfl, rfl⟩, rfl, rfl, rfl⟩

theorem State.setQueue_frame (r : Res) (q : List PoolIx) : LeaseFrame s (s.setQueue r q) :=
  ⟨⟨rfl, rfl, rfl, rfl, rfl, rfl, fun _ => rfl, rfl, rfl, by simp [State.setQueue]⟩,
    fun _ => ⟨rfl, rfl, rfl, rfl⟩, rfl, rfl, rfl⟩

theorem State.setDeadlines_frame (l : List Deadline) : LeaseFrame s (s.setDeadlines l) :=
  ⟨⟨rfl, rfl, rfl, rfl, rfl, rfl, fun _ => rfl, rfl, rfl, by simp [State.setDeadlines]⟩,
    fun _ => ⟨rfl, rfl, rfl, rfl⟩, rfl, rfl, rfl⟩

theorem State.report_frame (r : Res) (c : Client) : LeaseFrame s (s.report r c) := by
  refine ⟨⟨rfl, rfl, rfl, rfl, rfl, rfl, fun _ => rfl, rfl, rfl, by
    simp [State.report, State.setSession]⟩, fun c' => ?_, rfl, rfl, rfl⟩
  unfold State.sameSession State.report State.setSession State.session
  simp only [Vec.get_set]
  split
  · rename_i h
    subst h
    exact ⟨rfl, rfl, rfl, rfl⟩
  · exact ⟨rfl, rfl, rfl, rfl⟩

theorem State.raise_frame (e : EventSource) : LeaseFrame s (s.raise e) := by
  refine ⟨⟨rfl, rfl, rfl, rfl, rfl, rfl, fun _ => rfl, rfl, rfl, ?_⟩,
    fun _ => ⟨rfl, rfl, rfl, rfl⟩, rfl, rfl, rfl⟩
  show s.supervisor.events &&& (s.supervisor.events ||| e.only) = s.supervisor.events
  ext k hk
  simp only [BitVec.getElem_and, BitVec.getElem_or]
  cases s.supervisor.events[k] <;> simp

theorem State.notify_frame (c : Client) (r : Res) (w : ResourceWord) :
    LeaseFrame s (s.notify c r w) := by
  refine ⟨⟨rfl, rfl, rfl, rfl, rfl, rfl, fun c' => ?_, rfl, rfl, by
    simp [State.notify, State.setNoticeQueue]⟩, fun _ => ⟨rfl, rfl, rfl, rfl⟩, rfl, rfl, rfl⟩
  unfold State.notify State.setNoticeQueue State.noticeQueue
  simp only [Vec.get_set]
  split
  · rename_i h
    rw [h]
  · rfl

theorem State.disarm_frame (id : DeadlineId) : LeaseFrame s (s.disarm id) :=
  s.setDeadlines_frame _

theorem State.arm_frame (id : DeadlineId) (n : Ticks) : LeaseFrame s (s.arm id n) := by
  unfold State.arm
  split
  · exact s.disarm_frame id
  · exact s.setDeadlines_frame _

theorem State.removeEntry_frame (i : PoolIx) : LeaseFrame s (s.removeEntry i) := by
  unfold State.removeEntry
  cases s.entry i with
  | none => exact LeaseFrame.refl s
  | some e =>
    exact (((s.setQueue_frame _ _).trans (State.setEntry_frame _ _ _)).trans
      (State.disarm_frame _ _)).trans (State.report_frame _ _ _)

theorem State.armWait_frame (i : PoolIx) (wait : Ticks) : LeaseFrame s (s.armWait i wait) := by
  unfold State.armWait
  split
  · exact LeaseFrame.refl s
  · exact s.arm_frame _ _

theorem State.allocate_frame (i : PoolIx) (e : WaitEntry) (q : List PoolIx) (wait : Ticks) :
    LeaseFrame s (s.allocate i e q wait) :=
  (((s.setEntry_frame _ _).trans (State.setQueue_frame _ _ _)).trans
    (State.armWait_frame _ _ _)).trans (State.report_frame _ _ _)

theorem State.takeToken_frame : LeaseFrame s s.takeToken := by
  unfold State.takeToken
  dsimp only
  split
  · exact (s.setNextToken_frame _).trans (State.raise_frame _ _)
  · exact s.setNextToken_frame _

theorem State.grant_frame (r : Res) (c : Client) (m : Mode) (hold : Ticks) :
    LeaseFrame s (s.grant r c m hold) :=
  (((s.setRecord_frame _ _).trans (State.takeToken_frame _)).trans
    (State.arm_frame _ _ _)).trans (State.report_frame _ _ _)

theorem State.grantEntry_frame (r : Res) (i : PoolIx) (e : WaitEntry) :
    LeaseFrame s (s.grantEntry r i e) :=
  ((s.removeEntry_frame i).trans (State.grant_frame _ _ _ _ _)).trans
    (State.notify_frame _ _ _ _)

theorem State.grantHeads_frame (r : Res) (q : List PoolIx) :
    LeaseFrame s (s.grantHeads r q) := by
  induction q generalizing s with
  | nil => exact LeaseFrame.refl s
  | cons i rest ih =>
    unfold State.grantHeads
    cases s.entry i with
    | none => exact LeaseFrame.refl s
    | some e =>
      dsimp only
      split
      · exact (s.grantEntry_frame r i e).trans (ih _)
      · exact LeaseFrame.refl s

theorem State.grantRule_frame (r : Res) : LeaseFrame s (s.grantRule r) := by
  unfold State.grantRule
  split
  · exact s.grantHeads_frame r _
  · exact LeaseFrame.refl s

theorem State.lastHolderLeft_frame (r : Res) : LeaseFrame s (s.lastHolderLeft r) := by
  unfold State.lastHolderLeft
  dsimp only
  have ht : LeaseFrame s
      (if (s.record r).state = .revoking then s.disarm (.grace r) else s) := by
    split
    · exact s.disarm_frame _
    · exact LeaseFrame.refl s
  refine ht.trans ?_
  generalize (if (s.record r).state = .revoking then s.disarm (.grace r) else s) = t
  split
  · exact (t.setRecord_frame _ _).trans (State.arm_frame _ _ _)
  · split
    · exact t.setRecord_frame _ _
    · exact (t.setRecord_frame _ _).trans (State.grantRule_frame _ _)

theorem State.endLease_frame (r : Res) (c : Client) (quiet : Bool) :
    LeaseFrame s (s.endLease r c quiet) := by
  unfold State.endLease
  dsimp only
  refine (((s.setRecord_frame r ((s.record r).setLease c none)).trans
    (State.disarm_frame _ (.hold r c))).trans (State.report_frame _ r c)).trans ?_
  generalize ((s.setRecord r ((s.record r).setLease c none)).disarm (.hold r c)).report r c = t
  split
  · exact t.lastHolderLeft_frame r
  · split
    · exact t.grantRule_frame r
    · exact LeaseFrame.refl t

theorem State.removeUpgrade_frame (r : Res) (c : Client) :
    LeaseFrame s (s.removeUpgrade r c) := by
  unfold State.removeUpgrade
  cases s.upgradeOf r c with
  | none => exact LeaseFrame.refl s
  | some i => exact s.removeEntry_frame i

theorem State.removeHolder_frame (r : Res) (c : Client) :
    LeaseFrame s (State.removeHolder r s c) := by
  unfold State.removeHolder
  cases (s.record r).lease c with
  | none => exact LeaseFrame.refl s
  | some l => exact (s.notify_frame _ _ _).trans (State.endLease_frame _ _ _ _)

theorem State.removeHolders_frame (r : Res) : LeaseFrame s (s.removeHolders r) :=
  LeaseFrame.foldl (fun t c => t.removeHolder_frame r c) _ s

theorem State.dropWait_frame (c : Client) (r : Res) : LeaseFrame s (s.dropWait c r) := by
  unfold State.dropWait
  cases s.waitOf r c with
  | none => exact LeaseFrame.refl s
  | some i => exact (s.removeEntry_frame i).trans (State.grantRule_frame _ r)

theorem State.dropLease_frame (c : Client) (r : Res) : LeaseFrame s (s.dropLease c r) := by
  unfold State.dropLease
  split
  · exact s.endLease_frame r c false
  · exact LeaseFrame.refl s

theorem State.releaseResource_frame (c : Client) (r : Res) :
    LeaseFrame s (State.releaseResource c s r) :=
  (s.dropWait_frame c r).trans (State.dropLease_frame _ c r)

theorem State.reportRemoved_frame (c : Client) (n : Notice) :
    LeaseFrame s (s.reportRemoved c n) := by
  cases n with
  | resource r w k => exact s.report_frame r c
  | sessionLapsed k => exact LeaseFrame.refl s
  | sessionEvicted k => exact LeaseFrame.refl s

theorem State.setNoticeQueue_frame (c : Client) (q : List Notice) :
    LeaseFrame s (s.setNoticeQueue c { s.noticeQueue c with queue := q }) := by
  refine ⟨⟨rfl, rfl, rfl, rfl, rfl, rfl, fun c' => ?_, rfl, rfl, by
    simp [State.setNoticeQueue]⟩, fun _ => ⟨rfl, rfl, rfl, rfl⟩, rfl, rfl, rfl⟩
  unfold State.setNoticeQueue State.noticeQueue
  simp only [Vec.get_set]
  split
  · rename_i h
    rw [h]
  · rfl

theorem State.discardNotices_frame (c : Client) : LeaseFrame s (s.discardNotices c) :=
  (s.setNoticeQueue_frame c []).trans
    (LeaseFrame.foldl (fun t n => t.reportRemoved_frame c n) _ _)

theorem State.massRelease_frame (c : Client) : LeaseFrame s (s.massRelease c) :=
  (LeaseFrame.foldl (fun t r => t.releaseResource_frame c r) _ s).trans
    (State.discardNotices_frame _ c)

theorem State.cancelEntry_frame (i : PoolIx) : LeaseFrame s (s.cancelEntry i) := by
  unfold State.cancelEntry
  cases s.entry i with
  | none => exact LeaseFrame.refl s
  | some e => exact (s.notify_frame _ _ _).trans (State.removeEntry_frame _ i)

theorem State.cancelQueue_frame (r : Res) : LeaseFrame s (s.cancelQueue r) :=
  LeaseFrame.foldl (fun t i => t.cancelEntry_frame i) _ s

theorem State.cancelUpgrade_frame (r : Res) : LeaseFrame s (s.cancelUpgrade r) := by
  unfold State.cancelUpgrade
  cases s.upgradeHead r with
  | none => exact LeaseFrame.refl s
  | some i => exact s.cancelEntry_frame i

theorem State.warnHolder_frame (r : Res) (c : Client) :
    LeaseFrame s (State.warnHolder r s c) := by
  unfold State.warnHolder
  cases (s.record r).lease c with
  | none => exact LeaseFrame.refl s
  | some l => exact s.notify_frame _ _ _

theorem State.revokeWithGrace_frame (r : Res) : LeaseFrame s (s.revokeWithGrace r) := by
  unfold State.revokeWithGrace
  dsimp only
  refine (s.cancelUpgrade_frame r).trans ?_
  generalize s.cancelUpgrade r = t
  refine (LeaseFrame.foldl (fun u c => u.warnHolder_frame r c) (t.record r).holders t).trans ?_
  exact (State.setRecord_frame _ _ _).trans (State.arm_frame _ _ _)

theorem State.revokeAtOnce_frame (r : Res) : LeaseFrame s (s.revokeAtOnce r) :=
  ((s.cancelUpgrade_frame r).trans (State.removeHolders_frame _ r)).trans
    (State.raise_frame _ _)

end

/-! The frame over the other resources -/

theorem State.sameElsewhere_refl (s : State) (r : Res) : s.sameElsewhere s r :=
  ⟨fun _ _ => ⟨rfl, rfl⟩, fun _ _ => rfl, rfl, fun _ => rfl, fun _ _ _ => rfl,
    fun _ => ⟨rfl, rfl, rfl, rfl⟩⟩

theorem State.sameElsewhere_trans {s t u : State} {r : Res} (h : s.sameElsewhere t r)
    (k : t.sameElsewhere u r) : s.sameElsewhere u r := by
  obtain ⟨h1, h2, h3, h4, h5, h6⟩ := h
  obtain ⟨k1, k2, k3, k4, k5, k6⟩ := k
  have keep : ∀ i : PoolIx, s.waitsOn i ≠ some r → t.waitsOn i ≠ some r := by
    intro i hi
    unfold State.waitsOn at hi ⊢
    rw [h2 i hi]
    exact hi
  have away : ∀ d : Deadline, s.awayFrom r d = true → t.awayFrom r d = true := by
    intro d hd
    unfold State.awayFrom at hd ⊢
    cases hid : d.id with
    | wait i =>
      simp only [hid, bne_iff_ne] at hd ⊢
      exact keep i hd
    | hold r' c => simpa [hid] using hd
    | session c => simp
    | grace r' => simpa [hid] using hd
    | guard r' => simpa [hid] using hd
  have both : ∀ l : List Deadline,
      (l.filter (t.awayFrom r)).filter (s.awayFrom r) = l.filter (s.awayFrom r) := by
    intro l
    rw [List.filter_filter]
    apply List.filter_congr
    intro d _
    cases hs : s.awayFrom r d with
    | false => rfl
    | true => simp [away d hs]
  refine ⟨fun r' hr => ⟨(k1 r' hr).1.trans (h1 r' hr).1, (k1 r' hr).2.trans (h1 r' hr).2⟩,
    fun i hi => (k2 i (keep i hi)).trans (h2 i hi), ?_, fun c => (k4 c).trans (h4 c),
    fun c r' hr => (k5 c r' hr).trans (h5 c r' hr), fun c => ?_⟩
  · rw [← h3, ← both u.deadlines, k3, both]
  · obtain ⟨a1, a2, a3, a4⟩ := h6 c
    obtain ⟨b1, b2, b3, b4⟩ := k6 c
    exact ⟨b1.trans a1, b2.trans a2, b3.trans a3, b4.trans a4⟩

section
variable (s : State)

theorem State.setRecord_elsewhere (r : Res) (x : Record) :
    s.sameElsewhere (s.setRecord r x) r := by
  refine ⟨fun r' hr => ⟨?_, rfl⟩, fun _ _ => rfl, rfl, fun _ => rfl, fun _ _ _ => rfl,
    fun _ => ⟨rfl, rfl, rfl, rfl⟩⟩
  unfold State.record State.setRecord
  simp [Vec.get_set, hr]

theorem State.takeToken_elsewhere (r : Res) : s.sameElsewhere s.takeToken r := by
  unfold State.takeToken
  dsimp only
  split <;>
    exact ⟨fun _ _ => ⟨rfl, rfl⟩, fun _ _ => rfl, rfl, fun _ => rfl, fun _ _ _ => rfl,
      fun _ => ⟨rfl, rfl, rfl, rfl⟩⟩

theorem State.raise_elsewhere (e : EventSource) (r : Res) : s.sameElsewhere (s.raise e) r :=
  ⟨fun _ _ => ⟨rfl, rfl⟩, fun _ _ => rfl, rfl, fun _ => rfl, fun _ _ _ => rfl,
    fun _ => ⟨rfl, rfl, rfl, rfl⟩⟩

theorem State.report_elsewhere (r : Res) (c : Client) : s.sameElsewhere (s.report r c) r := by
  refine ⟨fun _ _ => ⟨rfl, rfl⟩, fun _ _ => rfl, rfl, fun _ => rfl, fun c' r' hr => ?_,
    (s.report_frame r c).sessions⟩
  unfold State.report State.setSession State.session Session.setInvolves Session.involves
  simp only [Vec.get_set]
  split
  · rename_i h
    simp [Vec.get_set, hr, h]
  · rfl

/-- A notice about a resource changes no other notice of the queue. -/
theorem filter_enqueueNotice (r : Res) (w : ResourceWord) (q : List Notice) :
    (enqueueNotice r w q).filter (fun n => !n.about r) = q.filter fun n => !n.about r := by
  induction q with
  | nil => simp [enqueueNotice, Notice.about]
  | cons n rest ih =>
    cases n with
    | resource r' w' k =>
      have e : enqueueNotice r w (.resource r' w' k :: rest)
          = if r' = r then .resource r w (saturatingSucc k) :: rest
            else .resource r' w' k :: enqueueNotice r w rest := rfl
      rw [e]
      split
      · rename_i h
        subst h
        simp [Notice.about]
      · rw [List.filter_cons, List.filter_cons, ih]
    | sessionLapsed k =>
      have e : enqueueNotice r w (.sessionLapsed k :: rest)
          = .sessionLapsed k :: enqueueNotice r w rest := rfl
      rw [e, List.filter_cons, List.filter_cons, ih]
    | sessionEvicted k =>
      have e : enqueueNotice r w (.sessionEvicted k :: rest)
          = .sessionEvicted k :: enqueueNotice r w rest := rfl
      rw [e, List.filter_cons, List.filter_cons, ih]

theorem State.notify_elsewhere (c : Client) (r : Res) (w : ResourceWord) :
    s.sameElsewhere (s.notify c r w) r := by
  refine ⟨fun _ _ => ⟨rfl, rfl⟩, fun _ _ => rfl, rfl, fun c' => ?_, fun _ _ _ => rfl,
    fun _ => ⟨rfl, rfl, rfl, rfl⟩⟩
  unfold State.notify State.setNoticeQueue State.noticeQueue
  simp only [Vec.get_set]
  split
  · rename_i h
    rw [filter_enqueueNotice, h]
  · rfl

/-- A deadline owned on the resource. -/
theorem State.disarm_elsewhere {r : Res} {id : DeadlineId}
    (h : ∀ d : Deadline, d.id = id → s.awayFrom r d = false) :
    s.sameElsewhere (s.disarm id) r :=
  ⟨fun _ _ => ⟨rfl, rfl⟩, fun _ _ => rfl, filter_withoutDeadline h, fun _ => rfl,
    fun _ _ _ => rfl, fun _ => ⟨rfl, rfl, rfl, rfl⟩⟩

theorem State.arm_elsewhere {r : Res} {id : DeadlineId} (n : Ticks)
    (h : ∀ d : Deadline, d.id = id → s.awayFrom r d = false) :
    s.sameElsewhere (s.arm id n) r := by
  rw [s.arm_eq]
  exact ⟨fun _ _ => ⟨rfl, rfl⟩, fun _ _ => rfl, filter_armedList h, fun _ => rfl,
    fun _ _ _ => rfl, fun _ => ⟨rfl, rfl, rfl, rfl⟩⟩

theorem State.awayFrom_hold (r : Res) (c : Client) (d : Deadline) (h : d.id = .hold r c) :
    s.awayFrom r d = false := by simp [State.awayFrom, h]

theorem State.awayFrom_grace (r : Res) (d : Deadline) (h : d.id = .grace r) :
    s.awayFrom r d = false := by simp [State.awayFrom, h]

theorem State.awayFrom_guard (r : Res) (d : Deadline) (h : d.id = .guard r) :
    s.awayFrom r d = false := by simp [State.awayFrom, h]

theorem State.awayFrom_wait {r : Res} {i : PoolIx} (hi : s.waitsOn i = some r) (d : Deadline)
    (h : d.id = .wait i) : s.awayFrom r d = false := by simp [State.awayFrom, h, hi]

/-- Removing an entry of the resource. -/
theorem State.removeEntry_elsewhere {r : Res} {i : PoolIx}
    (h : ∀ e ∈ s.entry i, e.resource = r) : s.sameElsewhere (s.removeEntry i) r := by
  unfold State.removeEntry
  cases he : s.entry i with
  | none => exact s.sameElsewhere_refl r
  | some e =>
    have hr : e.resource = r := h e he
    subst hr
    have hw : s.waitsOn i = some e.resource := by simp [State.waitsOn, he]
    dsimp only
    refine State.sameElsewhere_trans (t :=
      ((s.setQueue e.resource ((s.queue e.resource).erase i)).setEntry i none).disarm (.wait i))
      ⟨fun r' hr => ⟨rfl, ?_⟩, fun j hj => ?_, ?_, fun _ => rfl, fun _ _ _ => rfl,
        fun _ => ⟨rfl, rfl, rfl, rfl⟩⟩ (State.report_elsewhere _ _ _)
    · show Vec.get (Vec.set s.queues e.resource _) r' = Vec.get s.queues r'
      simp [Vec.get_set, hr]
    · show Vec.get (Vec.set s.entries i none) j = Vec.get s.entries j
      have : j ≠ i := by rintro rfl; exact hj hw
      simp [Vec.get_set, this]
    · exact filter_withoutDeadline fun d hd => s.awayFrom_wait hw d hd

theorem State.grant_elsewhere (r : Res) (c : Client) (m : Mode) (hold : Ticks) :
    s.sameElsewhere (s.grant r c m hold) r := by
  unfold State.grant
  dsimp only
  refine State.sameElsewhere_trans ?_ (State.report_elsewhere _ r c)
  refine State.sameElsewhere_trans ?_
    (State.arm_elsewhere _ _ fun d hd => State.awayFrom_hold _ r c d hd)
  exact State.sameElsewhere_trans (s.setRecord_elsewhere r _) (State.takeToken_elsewhere _ r)

theorem State.grantEntry_elsewhere {r : Res} {i : PoolIx} {e : WaitEntry}
    (h : ∀ e' ∈ s.entry i, e'.resource = r) : s.sameElsewhere (s.grantEntry r i e) r :=
  State.sameElsewhere_trans (State.sameElsewhere_trans (s.removeEntry_elsewhere h)
    (State.grant_elsewhere _ _ _ _ _)) (State.notify_elsewhere _ _ _ _)

/-- Removing an entry makes no entry. -/
theorem State.removeEntry_entry (i j : PoolIx) (e : WaitEntry)
    (h : (s.removeEntry i).entry j = some e) : s.entry j = some e := by
  unfold State.removeEntry at h
  cases he : s.entry i with
  | none => simpa [he] using h
  | some e' =>
    rw [he] at h
    have hh : (Vec.get (Vec.set s.entries i none) j : Option WaitEntry) = some e := h
    rw [Vec.get_set] at hh
    split at hh
    · simp at hh
    · exact hh

theorem State.takeToken_entry (j : PoolIx) : s.takeToken.entry j = s.entry j := by
  unfold State.takeToken
  dsimp only
  split <;> rfl

theorem State.arm_entry (id : DeadlineId) (n : Ticks) (j : PoolIx) :
    (s.arm id n).entry j = s.entry j := by
  unfold State.arm
  split <;> rfl

theorem State.report_entry (r : Res) (c : Client) (j : PoolIx) :
    (s.report r c).entry j = s.entry j := rfl

theorem State.grant_entry (r : Res) (c : Client) (m : Mode) (hold : Ticks) (j : PoolIx) :
    (s.grant r c m hold).entry j = s.entry j := by
  unfold State.grant
  rw [State.report_entry, State.arm_entry, State.takeToken_entry]
  rfl

theorem State.notify_entry (c : Client) (r : Res) (w : ResourceWord) (j : PoolIx) :
    (s.notify c r w).entry j = s.entry j := rfl

theorem State.grantEntry_entry (r : Res) (i j : PoolIx) (e : WaitEntry) :
    (s.grantEntry r i e).entry j = (s.removeEntry i).entry j := by
  unfold State.grantEntry
  rw [State.notify_entry, State.grant_entry]

/-- The grant rule's run over entries of the resource. -/
theorem State.grantHeads_elsewhere {r : Res} (q : List PoolIx)
    (h : ∀ i ∈ q, ∀ e ∈ s.entry i, e.resource = r) :
    s.sameElsewhere (s.grantHeads r q) r := by
  induction q generalizing s with
  | nil => exact s.sameElsewhere_refl r
  | cons i rest ih =>
    unfold State.grantHeads
    cases he : s.entry i with
    | none => exact s.sameElsewhere_refl r
    | some e =>
      dsimp only
      split
      · have hr : ∀ j ∈ rest, ∀ e' ∈ (s.grantEntry r i e).entry j, e'.resource = r := by
          intro j hj e' he'
          rw [State.grantEntry_entry] at he'
          exact h j (List.mem_cons_of_mem _ hj) e' (s.removeEntry_entry i j e' he')
        exact State.sameElsewhere_trans
          (s.grantEntry_elsewhere (h i List.mem_cons_self)) (ih _ hr)
      · exact s.sameElsewhere_refl r

theorem State.grantRule_elsewhere {r : Res} (h : ∀ i ∈ s.queue r, ∀ e ∈ s.entry i,
    e.resource = r) : s.sameElsewhere (s.grantRule r) r := by
  unfold State.grantRule
  split
  · exact s.grantHeads_elsewhere _ h
  · exact s.sameElsewhere_refl r

theorem State.lastHolderLeft_elsewhere {r : Res} (h : ∀ i ∈ s.queue r, ∀ e ∈ s.entry i,
    e.resource = r) : s.sameElsewhere (s.lastHolderLeft r) r := by
  unfold State.lastHolderLeft
  dsimp only
  obtain ⟨t, ht, h1, h2, h3⟩ : ∃ t : State,
      (if (s.record r).state = .revoking then s.disarm (.grace r) else s) = t
        ∧ s.sameElsewhere t r ∧ t.queue r = s.queue r ∧ ∀ i, t.entry i = s.entry i := by
    refine ⟨_, rfl, ?_, ?_, ?_⟩
    · split
      · exact s.disarm_elsewhere fun d hd => s.awayFrom_grace r d hd
      · exact s.sameElsewhere_refl r
    · split <;> rfl
    · intro i; split <;> rfl
  rw [ht]
  refine State.sameElsewhere_trans h1 ?_
  split
  · exact State.sameElsewhere_trans (t.setRecord_elsewhere r _)
      (State.arm_elsewhere _ _ fun d hd => State.awayFrom_guard _ r d hd)
  · split
    · exact t.setRecord_elsewhere r _
    · refine State.sameElsewhere_trans (t.setRecord_elsewhere r _)
        (State.grantRule_elsewhere _ fun i hi e he => ?_)
      have hi' : i ∈ t.queue r := hi
      have he' : e ∈ t.entry i := he
      rw [h2] at hi'
      rw [h3] at he'
      exact h i hi' e he'

/-- The release path touches nothing of the other resources. -/
theorem State.endLease_elsewhere {r : Res} (c : Client) (quiet : Bool)
    (h : ∀ i ∈ s.queue r, ∀ e ∈ s.entry i, e.resource = r) :
    s.sameElsewhere (s.endLease r c quiet) r := by
  unfold State.endLease
  dsimp only
  have h1 : s.sameElsewhere
      (((s.setRecord r ((s.record r).setLease c none)).disarm (.hold r c)).report r c) r :=
    State.sameElsewhere_trans (State.sameElsewhere_trans (s.setRecord_elsewhere r _)
      (State.disarm_elsewhere _ fun d hd => State.awayFrom_hold _ r c d hd))
      (State.report_elsewhere _ r c)
  refine State.sameElsewhere_trans h1 ?_
  split
  · exact State.lastHolderLeft_elsewhere _ h
  · split
    · exact State.grantRule_elsewhere _ h
    · exact State.sameElsewhere_refl _ r

end

/-! The operations in the statements' terms -/

/-- Removal of an entry whose queue holds it once: the state without it, and the report (R50). -/
theorem State.removeEntry_eq {s : State} {i : PoolIx} {e : WaitEntry} (he : s.entry i = some e)
    (hq : (s.queue e.resource).Nodup) :
    s.removeEntry i = (s.withoutEntry e.resource i).report e.resource e.client := by
  have hf : (s.queue e.resource).erase i = (s.queue e.resource).filter fun j => j != i :=
    hq.erase_eq_filter i
  unfold State.removeEntry
  rw [he]
  dsimp only
  rw [hf]
  rfl

/-- What follows the emptying of the last slot (R34). -/
theorem State.lastHolderLeft_eq {s : State} {r : Res}
    (h : (s.record r).slots = Vector.replicate 4 none) :
    s.lastHolderLeft r = s.afterLastHolder r := by
  unfold State.lastHolderLeft State.afterLastHolder
  dsimp only
  rw [← h]
  by_cases hv : (s.record r).state = .revoking <;>
    simp only [hv, if_true, if_false, State.arm_eq, State.disarm_eq, State.goOffline,
      State.setRecord]

end Sys2Proof.Machine
end

