-- ==== Sys2Proof/WellFormed.lean ====
section
/-! DEFINITION. Which commands spell what their row names on the wire. -/

namespace Sys2Proof

open Machine

/-- A parameter list a length byte of 0 to 16 admits (R146, R162). -/
def fitsFrame (params : List Byte) : Bool := decide (params.length ≤ maxParams)

/-- The command spells an event of its own row. An ill-formed one still has the meaning its bytes
have on the wire (entry 13). -/
def Instr.wellFormed : Instr → Bool
  | .status _ _ params _ => fitsFrame params
  | .openSession _ _ params _ => fitsFrame params
  | .closeSession _ _ params _ => fitsFrame params
  | .keepalive _ _ params _ => fitsFrame params
  | .claim _ _ params _ => fitsFrame params
  | .renew _ _ params _ => fitsFrame params
  | .release _ _ params _ => fitsFrame params
  | .downgrade _ _ params _ => fitsFrame params
  | .upgrade _ _ params _ => fitsFrame params
  | .withdraw _ _ params _ => fitsFrame params
  | .query _ _ params _ => fitsFrame params
  | .fetch _ _ params _ => fitsFrame params
  | .setAttention _ _ params _ => fitsFrame params
  | .clientUnknownRequest _ code _ params _ => fitsFrame params && !clientCodes.contains code
  | .clientBadLength _ _ _ len => decide (maxParams < len.toNat)
  | .cutTransaction _ arrived => receive arrived == .short
  | .define _ params _ => fitsFrame params
  | .amend _ params _ => fitsFrame params
  | .retire _ params _ => fitsFrame params
  | .inspectResource _ params _ => fitsFrame params
  | .inspectQueue _ params _ => fitsFrame params
  | .revoke _ params _ => fitsFrame params
  | .bindGate _ params _ => fitsFrame params
  | .unbindGate _ params _ => fitsFrame params
  | .readGates _ params _ => fitsFrame params
  | .setPolicy _ params _ => fitsFrame params
  | .evict _ params _ => fitsFrame params
  | .inspectClient _ params _ => fitsFrame params
  | .setTimebase _ params _ => fitsFrame params
  | .listDeadlines _ params _ => fitsFrame params
  | .readEvents _ params _ => fitsFrame params
  | .ackEvents _ params _ => fitsFrame params
  | .setEventMask _ params _ => fitsFrame params
  | .clearAll _ params _ => fitsFrame params
  | .supervisorUnknownRequest code _ params _ =>
    fitsFrame params && !supervisorCodes.contains code
  | .supervisorBadLength _ _ len => decide (maxParams < len.toNat)
  | .incomplete arrived _ => receive arrived == .short
  | .tickEvent _ => true
  | .holdDeadlineExpiry _ _ => true
  | .waitDeadlineExpiry _ => true
  | .lapse _ => true
  | .graceExpiry _ => true
  | .guardExpiry _ => true
  | .deviceReset _ _ => true

end Sys2Proof
end

