-- ==== Sys2Proof/Tests/Slice0.lean ====
section
/-! SUPPORT. Smoke tests of the well-formedness check, one-step tests of every command on a small
state, and for each statement with hypotheses a state and operands that meet them. -/

open Sys2Proof Sys2Proof.Machine

namespace Sys2Proof.Tests

set_option Elab.async false

/-! A state in the middle of its work: resource 0 IDLE; 1 HELD EXCLUSIVE by C0 with C1 waiting;
2 HELD SHARED by C0 and C1 with C0's UPGRADE at the head and C2 behind; 3 REVOKING; 4 DRAINING;
6 HELD and retire pending; 7 HELD SHARED by C3 alone, with a guard; the rest OFFLINE. -/

def attrs (guard grace : Ticks) : Attributes :=
  { modes := .either, mask := 15, maxHold := 0, defaultHold := 100, guard, grace }

def record (st : RecordState) (m : Option Mode) (slots : List (Client × Token)) (a : Attributes) :
    Record :=
  { state := st, heldMode := m, attrs := a, retirePending := false
    deadline := match st with
      | .revoking => .grace
      | .draining => .guard
      | .offline => .absent
      | .idle => .absent
      | .held => .absent
    slots := Vector.ofFn fun c =>
      (slots.find? fun x => x.1 == c).map fun x => { token := x.2, grantedAt := 7 } }

def sample : State :=
  { State.reset with
    records := Vector.ofFn fun r =>
      if r = 0 then record .idle none [] (attrs 0 0)
      else if r = 1 then record .held (some .exclusive) [(0, 1)] (attrs 0 0)
      else if r = 2 then record .held (some .shared) [(0, 2), (1, 3)] (attrs 0 5)
      else if r = 3 then record .revoking (some .shared) [(1, 4)] (attrs 6 5)
      else if r = 4 then record .draining none [] (attrs 6 5)
      else if r = 6 then
        { record .held (some .exclusive) [(0, 5)] (attrs 0 0) with retirePending := true }
      else if r = 7 then record .held (some .shared) [(3, 6)] (attrs 4 0)
      else Record.cleared
    nextToken := 7
    entries := Vector.ofFn fun i =>
      if i = 0 then some { resource := 1, client := 1, kind := .exclusive, hold := 0 }
      else if i = 1 then some { resource := 2, client := 0, kind := .upgrade, hold := 9 }
      else if i = 2 then some { resource := 2, client := 2, kind := .exclusive, hold := 0 }
      else none
    queues := Vector.ofFn fun r => if r = 1 then [0] else if r = 2 then [1, 2] else []
    clock := 10
    deadlines :=
      [ ⟨.grace 3, 12⟩, ⟨.guard 4, 13⟩, ⟨.wait 0, 15⟩, ⟨.session 0, 60⟩, ⟨.hold 1 0, 107⟩,
        ⟨.hold 2 0, 107⟩, ⟨.hold 2 1, 107⟩ ]
    sessions := Vector.ofFn fun c =>
      { port := .attached, number := 1, ttl := if c = 0 then 50 else 0
        involved := Vector.ofFn fun r =>
          if c = 0 then r == 1 || r == 2 || r == 6
          else if c = 1 then r == 1 || r == 2 || r == 3 || r == 9
          else if c = 2 then r == 2 else r == 7
        policy := { enabled := true, maxTtl := 65535, unwatched := true } }
    notices := Vector.ofFn fun c =>
      { queue := if c = 1 then [.resource 9 .claimCancelled 0] else [], mask := 63 }
    gates := Vector.ofFn fun g =>
      if g = 0 then
        some { resource := 1, client := 0, cover := .exclusiveOnly, polarity := .highActive }
      else if g = 1 then
        some { resource := 1, client := 1, cover := .exclusiveOnly, polarity := .lowActive }
      else none }

/-- The sample with every pool index in use, the added ones behind C1 on resource 1. -/
def fullPool : State :=
  { sample with
    entries := Vector.ofFn fun i =>
      (sample.entry i).or (some { resource := 1, client := 2, kind := .shared, hold := 0 })
    queues := Vector.ofFn fun r =>
      if r = 1 then 0 :: (List.finRange 32).drop 3 else if r = 2 then [1, 2] else [] }

/-- The sample without resource 2's waiters. -/
def noWaiters : State :=
  { sample with
    entries := Vector.ofFn fun i => if i = 0 then sample.entry 0 else none
    queues := Vector.ofFn fun r => if r = 1 then [0] else [] }

/-- The sample with the token counter at its last token, or exhausted. -/
def lastToken (t : Token) : State := { sample with nextToken := t }

/-- The sample with the policy switched off for C3. -/
def disabledPort : State :=
  sample.setSession 3
    { sample.session 3 with policy := { enabled := false, maxTtl := 9, unwatched := false } }

/-- The sample with an exchange with tag 5 in C3's replay record: KEEPALIVE, answered OK. -/
def answeredBefore : State :=
  sample.setCpi 3
    { framing := .responding { status := .ok, tag := 5, replay := false, payload := [0, 0] } 0
      lastTag := 5, lastRequest := frameBytes 0x04 5 []
      lastResponse := some { status := .ok, tag := 5, replay := false, payload := [0, 0] }
      linkErrors := 0 }

/-- The outcome is a next state with the property. -/
def leads (o : Host.Outcome State Fault Refusal) (p : State → Bool) : Bool :=
  match o with
  | .next t => p t
  | .fault _ => false
  | .refused _ => false

/-- The port answers with the status and the payload. -/
def answers (t : State) (p : Client) (tag : Byte) (st : Status) (payload : List Byte) : Bool :=
  decide ((t.cpi p).framing = .responding { status := st, tag, replay := false, payload } 0)

/-- The supervisor port has the status and the payload stored. -/
def stores (t : State) (tag : Byte) (st : Status) (payload : List Byte) : Bool :=
  decide (t.supervisor.stored = { status := st, tag, replay := false, payload })

/-! Well-formedness: every check refuses an ill-formed command -/

theorem test_wellFormed_accepts :
    (Instr.wellFormed (.status 0 1 [] 0) && Instr.wellFormed (.define 1 (List.replicate 16 0) 0)
      && Instr.wellFormed (.clientUnknownRequest 0 0x77 1 [] 0)
      && Instr.wellFormed (.clientBadLength 0 1 1 17) && Instr.wellFormed (.cutTransaction 0 [1, 2])
      && Instr.wellFormed (.supervisorUnknownRequest 0x01 1 [] 0)
      && Instr.wellFormed (.supervisorBadLength 0x40 1 255)
      && Instr.wellFormed (.incomplete [0x40, 1, 2, 3, 4] .stop)) = true := by decide +kernel

theorem test_wellFormed_refuses_seventeen_parameters :
    ([ .status 0 1 (List.replicate 17 0) 0, .openSession 0 1 (List.replicate 17 0) 0,
       .closeSession 0 1 (List.replicate 17 0) 0, .keepalive 0 1 (List.replicate 17 0) 0,
       .claim 0 1 (List.replicate 17 0) 0, .renew 0 1 (List.replicate 17 0) 0,
       .release 0 1 (List.replicate 17 0) 0, .downgrade 0 1 (List.replicate 17 0) 0,
       .upgrade 0 1 (List.replicate 17 0) 0, .withdraw 0 1 (List.replicate 17 0) 0,
       .query 0 1 (List.replicate 17 0) 0, .fetch 0 1 (List.replicate 17 0) 0,
       .setAttention 0 1 (List.replicate 17 0) 0,
       .clientUnknownRequest 0 0x77 1 (List.replicate 17 0) 0,
       .define 1 (List.replicate 17 0) 0, .amend 1 (List.replicate 17 0) 0,
       .retire 1 (List.replicate 17 0) 0, .inspectResource 1 (List.replicate 17 0) 0,
       .inspectQueue 1 (List.replicate 17 0) 0, .revoke 1 (List.replicate 17 0) 0,
       .bindGate 1 (List.replicate 17 0) 0, .unbindGate 1 (List.replicate 17 0) 0,
       .readGates 1 (List.replicate 17 0) 0, .setPolicy 1 (List.replicate 17 0) 0,
       .evict 1 (List.replicate 17 0) 0, .inspectClient 1 (List.replicate 17 0) 0,
       .setTimebase 1 (List.replicate 17 0) 0, .listDeadlines 1 (List.replicate 17 0) 0,
       .readEvents 1 (List.replicate 17 0) 0, .ackEvents 1 (List.replicate 17 0) 0,
       .setEventMask 1 (List.replicate 17 0) 0, .clearAll 1 (List.replicate 17 0) 0,
       .supervisorUnknownRequest 0x01 1 (List.replicate 17 0) 0 ] : List Instr).all
      (fun i => !i.wellFormed) = true := by decide +kernel

theorem test_wellFormed_refuses_known_codes :
    (Instr.wellFormed (.clientUnknownRequest 0 0x10 1 [] 0)
      || Instr.wellFormed (.supervisorUnknownRequest 0x40 1 [] 0)) = false := by decide +kernel

theorem test_wellFormed_refuses_short_bad_lengths :
    (Instr.wellFormed (.clientBadLength 0 1 1 16)
      || Instr.wellFormed (.supervisorBadLength 0x40 1 16)) = false := by decide +kernel

theorem test_wellFormed_refuses_whole_requests :
    (Instr.wellFormed (.cutTransaction 0 [1, 1, 0, 0])
      || Instr.wellFormed (.cutTransaction 0 [1, 1, 17])
      || Instr.wellFormed (.incomplete [0x52, 1, 0, 0] .stop)
      || Instr.wellFormed (.incomplete [0x52, 1, 17] .stop)) = false := by decide +kernel

/-! Encodings -/

/-- The check value of R174. -/
theorem test_crc_check_value : crcOf [0x01, 0x00, 0x00] = 0x98 := by decide +kernel

/-- TABLE 2-2. -/
theorem test_effective_hold_examples :
    ([ (0, 1000, 4000, 1000), (2500, 1000, 4000, 2500), (9000, 1000, 4000, 4000),
       (0, 0, 4000, 4000), (0, 0, 0, 0), (300, 0, 0, 300), (65535, 1000, 0, 65535) ]
      : List (Ticks × Ticks × Ticks × Ticks)).all
      (fun x => effectiveHold { attrs 0 0 with defaultHold := x.2.1, maxHold := x.2.2.1 } x.1
        == x.2.2.2) = true := by decide +kernel

/-- The catalogues of the statements agree with the ports' own. -/
theorem test_catalogues :
    clientRows.map (fun row => (row.code, row.length))
        = clientCatalogue.map (fun q => (q.code, q.length))
      ∧ supervisorRows.map (fun row => (row.code, row.length))
        = supervisorCatalogue.map (fun q => (q.code, q.length)) := by decide +kernel

/-- No word spells a command. -/
theorem test_no_word_spells_a_command :
    decodeTableWord 32 0x40 = none ∧ sample.withFetchWord 32 0x40 = sample := by decide +kernel

/-! One step of each client command -/

theorem test_status :
    leads (exec (.status 0 1 [] (goodCrc 0x01 1 [])) sample)
      (fun t => answers t 0 1 .ok [1, 1, 0, 1, 3, 0, 0, 0, 0, 0, 10, 0x4A, 0x64]) = true := by
  decide +kernel

theorem test_openSession :
    leads (exec (.openSession 2 1 [0, 50] (goodCrc 0x02 1 [0, 50])) State.reset)
      (fun t => answers t 2 1 .ok [0, 1] && t.attached 2 && t.armed (.session 2)) = true := by
  decide +kernel

/-- An unwatched session is refused while the policy does not allow it. -/
theorem test_openSession_refused :
    leads (exec (.openSession 2 1 [0, 0] (goodCrc 0x02 1 [0, 0])) State.reset)
      (fun t => answers t 2 1 .ttlRefused [] && !t.attached 2) = true := by decide +kernel

theorem test_closeSession :
    leads (exec (.closeSession 3 1 [] (goodCrc 0x03 1 [])) sample)
      (fun t => answers t 3 1 .ok [1] && !t.attached 3 && (t.record 7).state == .draining) = true := by
  decide +kernel

theorem test_keepalive :
    leads (exec (.keepalive 0 1 [] (goodCrc 0x04 1 [])) sample)
      (fun t => answers t 0 1 .ok [0, 50]) = true := by decide +kernel

theorem test_claim_granted :
    leads (exec (.claim 3 1 [0, 1, 0, 0, 0, 0] (goodCrc 0x10 1 [0, 1, 0, 0, 0, 0])) sample)
      (fun t => answers t 3 1 .granted [0, 0, 0, 0, 0, 7, 0, 100] && t.holds 0 3) = true := by
  decide +kernel

theorem test_claim_queued :
    leads (exec (.claim 3 1 [1, 0, 0, 0, 0, 9] (goodCrc 0x10 1 [1, 0, 0, 0, 0, 9])) sample)
      (fun t => answers t 3 1 .queued [2] && t.queue 1 == [0, 3]) = true := by decide +kernel

theorem test_renew :
    leads (exec (.renew 0 1 [1, 0, 30] (goodCrc 0x11 1 [1, 0, 30])) sample)
      (fun t => answers t 0 1 .ok [0, 30] && t.remaining (.hold 1 0) == 30) = true := by
  decide +kernel

theorem test_release :
    leads (exec (.release 0 1 [1] (goodCrc 0x12 1 [1])) sample)
      (fun t => answers t 0 1 .ok [0] && t.holds 1 1 && !t.gateLevel 0 && !t.gateLevel 1) = true := by
  decide +kernel

theorem test_downgrade :
    leads (exec (.downgrade 0 1 [1] (goodCrc 0x13 1 [1])) sample)
      (fun t => answers t 0 1 .ok [] && t.holds 1 0 && !t.holds 1 1
        && (t.record 1).heldMode == some .shared) = true := by decide +kernel

theorem test_upgrade :
    leads (exec (.upgrade 3 1 [7, 0, 0, 0, 0] (goodCrc 0x14 1 [7, 0, 0, 0, 0])) sample)
      (fun t => answers t 3 1 .granted [0, 0, 0, 0, 0, 7, 0, 100]
        && (t.record 7).heldMode == some .exclusive) = true := by decide +kernel

theorem test_upgrade_conflict :
    leads (exec (.upgrade 1 1 [2, 0, 0, 0, 9] (goodCrc 0x14 1 [2, 0, 0, 0, 9])) sample)
      (fun t => answers t 1 1 .upgradeConflict []) = true := by decide +kernel

theorem test_withdraw :
    leads (exec (.withdraw 2 1 [2] (goodCrc 0x15 1 [2])) sample)
      (fun t => answers t 2 1 .ok [] && t.queue 2 == [1] && (t.entry 2).isNone
        && (t.session 2).tally == 0) = true := by decide +kernel

theorem test_query :
    leads (exec (.query 3 1 [7] (goodCrc 0x16 1 [7])) sample)
      (fun t => answers t 3 1 .ok
        [2, 1, 1, 0, 0, 1, 0, 0, 0, 0, 0, 6, 0, 0, 0, 7, 0, 0, 0, 0, 0, 0]) = true := by decide +kernel

theorem test_fetch :
    leads (exec (.fetch 1 1 [] (goodCrc 0x20 1 [])) sample)
      (fun t => answers t 1 1 .ok [0, 3, 9, 0, 0, 0, 0, 0, 0, 0, 0, 0] && !t.attention 1
        && (t.session 1).tally == 3) = true := by decide +kernel

theorem test_setAttention :
    leads (exec (.setAttention 1 1 [0b111011] (goodCrc 0x21 1 [0b111011])) sample)
      (fun t => answers t 1 1 .ok [] && sample.attention 1 && !t.attention 1) = true := by
  decide +kernel

theorem test_clientUnknownRequest :
    leads (exec (.clientUnknownRequest 0 0x77 1 [] (goodCrc 0x77 1 [])) sample)
      (fun t => answers t 0 1 .unknownRequest [] && (t.cpi 0).linkErrors == 1
        && t.raised (.linkError 0)) = true := by decide +kernel

theorem test_clientBadLength :
    leads (exec (.clientBadLength 0 0x10 1 17) sample)
      (fun t => answers t 0 1 .badLength [] && (t.cpi 0).linkErrors == 1) = true := by decide +kernel

theorem test_cutTransaction :
    leads (exec (.cutTransaction 0 [0x10, 1]) sample)
      (fun t => (t.cpi 0).linkErrors == 1 && (t.cpi 0).framing == .idle) = true := by decide +kernel

/-- A frame that is resent with its tag is answered from the replay record. -/
theorem test_replay :
    leads (exec (.keepalive 3 5 [] (goodCrc 0x04 5 [])) answeredBefore)
      (fun t => decide ((t.cpi 3).framing
        = .responding { status := .ok, tag := 5, replay := true, payload := [0, 0] } 0)) = true := by
  decide +kernel

/-! The wires, byte by byte (entry 3) -/

/-- A KEEPALIVE clocked byte by byte, its response clocked out, and the port DONE after it (R146,
R150): the response KEEPALIVE, OK with TTL 50, is the marker and seven bytes. -/
theorem test_clock_keepalive :
    let taken := sample.busRun (clientEvents 0 [0x04, 1, 0, goodCrc 0x04 1 []])
    answers taken 0 1 .ok [0, 50] = true
      ∧ (taken.busRun (List.replicate 0 (.clock 0 0))).so 0 = some 0x5C
      ∧ (taken.busRun (List.replicate 2 (.clock 0 0))).so 0 = some 1
      ∧ (taken.busRun (List.replicate 6 (.clock 0 0))).so 0 = some 50
      ∧ ((taken.busRun (List.replicate 7 (.clock 0 0))).cpi 0).framing ≠ .done
      ∧ ((taken.busRun (List.replicate 8 (.clock 0 0))).cpi 0).framing = .done
      ∧ (taken.busRun (List.replicate 8 (.clock 0 0))).so 0 = some 0xFF
      ∧ ((taken.busRun (List.replicate 8 (.clock 0 0) ++ [.csRise 0])).cpi 0).framing = .idle := by
  decide +kernel

/-- A write of READ EVENTS, a repeated START, and a read of its response (R161 to R165): the address
and every byte of the frame are acknowledged, a byte behind it is not. -/
theorem test_write_and_read :
    let start := sample.busEvent (.start 0x6C false)
    let taken := start.busRun ([0x68, 9, 0, goodCrc 0x68 9 []].map .write)
    let reading := taken.busEvent (.start 0x6C true)
    sample.acknowledges 0x6C = true ∧ sample.acknowledges 0x6D = false
      ∧ start.acknowledgesData 0x68 = true ∧ taken.acknowledgesData 0 = false
      ∧ (start.busRun [.write 0x68, .write 9]).acknowledgesData 17 = false
      ∧ (start.busRun [.write 0x68, .write 9]).acknowledgesData 16 = true
      ∧ taken.supervisor.framing = .discarding ∧ taken.sda = none
      ∧ (taken.busEvent .stop).supervisor.framing = .idle
      ∧ (taken.busEvent (.start 0x6D false)).supervisor.framing = .idle
      ∧ reading.sda = some 0 ∧ (reading.busEvent (.read true)).sda = some 9
      ∧ (reading.busRun (List.replicate 9 (.read true))).sda = some 0xFF
      ∧ (reading.busEvent (.read false)).sda = none
      ∧ (reading.busRun [.read true, .read false, .stop]).supervisor.framing = .idle
      ∧ (reading.busRun [.read true, .read false]).supervisor.stored = taken.supervisor.stored := by
  decide +kernel

/-- While RESET is low every data line is released, and so is each after it with CS high. -/
theorem test_pins_at_reset : State.reset.pins = Pins.duringReset := by decide +kernel

/-- With no command waiting a step takes the wire event at the front. -/
theorem test_step_takes_a_wire_event :
    leads (step (sample.setBus [.csFall 0, .stop]))
      (fun t => (t.cpi 0).framing == .receiving [] && t.bus == [.stop] && t.refCount == 0)
      = true := by decide +kernel

/-! One step of each supervisor command -/

theorem test_define :
    leads (exec (.define 1 [5, 3, 15, 0, 0, 0, 9, 0, 0, 0, 0]
        (goodCrc 0x40 1 [5, 3, 15, 0, 0, 0, 9, 0, 0, 0, 0])) sample)
      (fun t => stores t 1 .ok [] && (t.record 5).state == .idle
        && (t.record 5).attrs.defaultHold == 9) = true := by decide +kernel

theorem test_amend :
    leads (exec (.amend 1 [7, 1, 15, 0, 0, 0, 9, 0, 0, 0, 0]
        (goodCrc 0x41 1 [7, 1, 15, 0, 0, 0, 9, 0, 0, 0, 0])) sample)
      (fun t => stores t 1 .inUse [] && t.record 7 == sample.record 7) = true := by decide +kernel

theorem test_retire :
    leads (exec (.retire 1 [1] (goodCrc 0x42 1 [1])) sample)
      (fun t => stores t 1 .ok [1, 1] && (t.record 1).retirePending && t.queue 1 == []
        && t.unread 1 1) = true := by decide +kernel

theorem test_inspectResource :
    leads (exec (.inspectResource 1 [3, 0] (goodCrc 0x43 1 [3, 0])) sample)
      (fun t => stores t 1 .ok
        [3, 1, 0, 3, 15, 0, 0, 0, 100, 0, 6, 0, 5, 1, 0, 4, 0, 2, 0, 0, 0, 10, 0, 0, 0, 0, 0, 7]) = true := by
  decide +kernel

theorem test_inspectQueue :
    leads (exec (.inspectQueue 1 [2, 1] (goodCrc 0x44 1 [2, 1])) sample)
      (fun t => stores t 1 .ok [2, 1, 2, 0x22, 0, 0, 0, 0]) = true := by decide +kernel

theorem test_revoke :
    leads (exec (.revoke 1 [2] (goodCrc 0x45 1 [2])) sample)
      (fun t => stores t 1 .ok [2, 2] && (t.record 2).state == .revoking && t.queue 2 == [2]
        && t.remaining (.grace 2) == 5) = true := by decide +kernel

theorem test_bindGate :
    leads (exec (.bindGate 1 [3, 7, 3, 1, 0] (goodCrc 0x50 1 [3, 7, 3, 1, 0])) sample)
      (fun t => stores t 1 .ok [3] && t.gateLevel 3) = true := by decide +kernel

theorem test_unbindGate :
    leads (exec (.unbindGate 1 [0] (goodCrc 0x51 1 [0])) sample)
      (fun t => stores t 1 .ok [1] && sample.gateLevel 0 && !t.gateLevel 0) = true := by
  decide +kernel

theorem test_readGates :
    leads (exec (.readGates 1 [] (goodCrc 0x52 1 [])) sample)
      (fun t => stores t 1 .ok ([0xC0, 1, 0xE1, 1] ++ List.replicate 28 0)) = true := by
  decide +kernel

theorem test_setPolicy :
    leads (exec (.setPolicy 1 [3, 0, 0, 9, 0] (goodCrc 0x58 1 [3, 0, 0, 9, 0])) sample)
      (fun t => stores t 1 .ok [1] && (t.session 3).port == .lapsed && !t.enabled 3
        && !t.holds 7 3) = true := by decide +kernel

theorem test_evict :
    leads (exec (.evict 1 [3] (goodCrc 0x59 1 [3])) sample)
      (fun t => stores t 1 .ok [1] && (t.session 3).port == .lapsed && t.attention 3) = true := by
  decide +kernel

theorem test_inspectClient :
    leads (exec (.inspectClient 1 [0] (goodCrc 0x5A 1 [0])) sample)
      (fun t => stores t 1 .ok
        [1, 1, 255, 255, 1, 0, 1, 0, 50, 0, 50, 3, 0, 63, 0,
         0, 0, 0, 0, 0, 0, 0, 0x46, 0, 0, 0, 0, 0, 0, 0, 0x04]) = true := by decide +kernel

theorem test_setTimebase :
    leads (exec (.setTimebase 1 [1, 0] (goodCrc 0x60 1 [1, 0])) State.reset)
      (fun t => stores t 1 .ok [] && t.timebase.source == .external) = true := by decide +kernel

theorem test_listDeadlines :
    leads (exec (.listDeadlines 1 [5] (goodCrc 0x61 1 [5])) sample)
      (fun t => stores t 1 .ok
        [0, 0, 0, 10, 0, 2, 7, 2, 1, 2, 0, 0, 97, 1, 2, 1, 0, 97]) = true := by decide +kernel

theorem test_readEvents :
    leads (exec (.readEvents 1 [] (goodCrc 0x68 1 [])) (sample.raise .tokensOut))
      (fun t => stores t 1 .ok [4, 0, 0, 0]) = true := by decide +kernel

theorem test_ackEvents :
    leads (exec (.ackEvents 1 [4, 0] (goodCrc 0x69 1 [4, 0]))
        ((sample.raise .tokensOut).raise .poolFull))
      (fun t => stores t 1 .ok [1, 0]) = true := by decide +kernel

theorem test_setEventMask :
    leads (exec (.setEventMask 1 [4, 0] (goodCrc 0x6A 1 [4, 0])) (sample.raise .tokensOut))
      (fun t => stores t 1 .ok [] && t.supervisorAttention) = true := by decide +kernel

theorem test_clearAll :
    leads (exec (.clearAll 1 [] (goodCrc 0x7F 1 [])) sample)
      (fun t => stores t 1 .ok [] && (t.record 1).state == .idle
        && (t.record 6).state == .offline && t.deadlines.isEmpty && t.nextToken == 7) = true := by
  decide +kernel

theorem test_supervisorUnknownRequest :
    leads (exec (.supervisorUnknownRequest 0x01 1 [] (goodCrc 0x01 1 [])) sample)
      (fun t => stores t 1 .unknownRequest []) = true := by decide +kernel

theorem test_supervisorBadLength :
    leads (exec (.supervisorBadLength 0x40 1 17) sample)
      (fun t => stores t 1 .badLength []) = true := by decide +kernel

theorem test_incomplete :
    leads (exec (.incomplete [0x40, 9] .restartRead) sample)
      (fun t => stores t 9 .incomplete [] && t.supervisor.framing == .sending 0 true) = true := by
  decide +kernel

/-! One step of each clock event -/

theorem test_tickEvent :
    leads (exec (.tickEvent .internal) { sample with clock := 11 })
      (fun t => t.clock == 12 && (t.record 3).state == .draining && t.raised .forcedRevoke
        && t.unread 3 1) = true := by decide +kernel

theorem test_holdDeadlineExpiry :
    leads (exec (.holdDeadlineExpiry 1 0) sample)
      (fun t => t.holds 1 1 && (t.noticeQueue 0).queue == [.resource 1 (.leaseExpired 1) 0]) = true := by
  decide +kernel

theorem test_waitDeadlineExpiry :
    leads (exec (.waitDeadlineExpiry 0) sample)
      (fun t => (t.entry 0).isNone && t.unread 1 1) = true := by decide +kernel

theorem test_lapse :
    leads (exec (.lapse 0) sample)
      (fun t => (t.session 0).port == .lapsed && t.raised (.lapse 0) && t.holds 1 1
        && (t.record 6).state == .offline) = true := by decide +kernel

theorem test_graceExpiry :
    leads (exec (.graceExpiry 3) sample)
      (fun t => (t.record 3).state == .draining && t.raised .forcedRevoke) = true := by
  decide +kernel

theorem test_guardExpiry :
    leads (exec (.guardExpiry 4) sample)
      (fun t => (t.record 4).state == .idle && !t.armed (.guard 4)) = true := by decide +kernel

theorem test_deviceReset :
    leads (exec (.deviceReset 2 1) sample)
      (fun t => t.supervisor.address == 0x6E && (t.cpi 0).framing == .done
        && (t.cpi 1).framing == .idle && t.nextToken == 1) = true := by decide +kernel

/-! The sample meets every invariant -/

theorem witness_RecordsWf : sample.RecordsWf := by decide +kernel
theorem witness_DeadlinesWf : sample.DeadlinesWf := by decide +kernel
theorem witness_PoolWf : sample.PoolWf := by decide +kernel
theorem witness_OneWaitEach : sample.OneWaitEach := by decide +kernel

theorem witness_UpgradesWf_kinds :
    ∀ (r : Res) (c : Client), ∀ i ∈ sample.queue r, sample.entryOf c i = true →
      sample.isUpgrade i = sample.holds r c := by decide +kernel

theorem witness_UpgradesWf : sample.UpgradesWf :=
  ⟨witness_UpgradesWf_kinds, by decide +kernel, by decide +kernel⟩

theorem witness_SessionsWf : sample.SessionsWf := by decide +kernel

theorem witness_WaitersWf : sample.WaitersWf :=
  ⟨witness_PoolWf, witness_OneWaitEach, witness_UpgradesWf, witness_SessionsWf⟩

theorem witness_QueuesWf : sample.QueuesWf := by decide +kernel

theorem witness_OwnersWf : sample.OwnersWf :=
  ⟨by decide +kernel, by decide +kernel, by decide +kernel⟩

theorem witness_tokens_issued :
    ∀ (r : Res) (c : Client), (sample.tokenOf r c).all
      (fun t => decide (t ≠ 0 ∧ (sample.nextToken = 0 ∨ t < sample.nextToken))) = true := by
  decide +kernel

theorem witness_tokens_unique :
    ∀ (r : Res) (c : Client), sample.tokenOf r c ≠ none → ∀ (r' : Res) (c' : Client),
      sample.tokenOf r' c' = sample.tokenOf r c → r = r' ∧ c = c' := by decide +kernel

theorem witness_TokensWf : sample.TokensWf := by
  constructor
  · intro r c t ht
    have h := witness_tokens_issued r c
    rw [Option.mem_def.mp ht] at h
    simpa using h
  · intro r r' c c' t ht h
    refine witness_tokens_unique r c ?_ r' c' (h.trans (Option.mem_def.mp ht).symm)
    rw [Option.mem_def.mp ht]
    exact Option.some_ne_none t

theorem witness_NoticesWf : sample.NoticesWf := by decide +kernel
theorem witness_InvolvementWf : sample.InvolvementWf := by decide +kernel
theorem witness_TallyWf : sample.TallyWf := by decide +kernel

/-- Every invariant statement has a state that meets all its premises, and the step answers a next
state there. -/
theorem witness_invariants :
    (∃ t, step sample = .next t) ∧ sample.RecordsWf ∧ sample.DeadlinesWf ∧ sample.WaitersWf
      ∧ sample.QueuesWf ∧ sample.OwnersWf ∧ sample.TokensWf ∧ sample.NoticesWf
      ∧ sample.InvolvementWf ∧ sample.TallyWf :=
  ⟨⟨_, rfl⟩, witness_RecordsWf, witness_DeadlinesWf, witness_WaitersWf, witness_QueuesWf,
    witness_OwnersWf, witness_TokensWf, witness_NoticesWf, witness_InvolvementWf,
    witness_TallyWf⟩

/-! Witnesses of the hypotheses, statement by statement and clause by clause -/

theorem witness_StepTakesTheFrontCommand :
    (sample.setPending [.lapse 0]).pending = .lapse 0 :: []
      ∧ (sample.setBus [.stop]).bus = .stop :: [] ∧ sample.bus = []
      ∧ (sample.pending = [] ∧ (sample.setTimebase ⟨.external, 0⟩).timebase.source = .external)
      ∧ (sample.timebase.source = .internal
          ∧ (sample.setRefCount 15998).refCount + 1 < 160 * 10 ^ sample.timebase.period.val)
      ∧ 160 * 10 ^ sample.timebase.period.val ≤ (sample.setRefCount 15999).refCount + 1 := by
  decide +kernel

theorem witness_CrcOfEveryFrame :
    (1 : Byte) ≠ crcOf ((0x01 : Byte) :: 0 :: countByte 0 :: []) := by decide +kernel

theorem witness_EffectiveHoldCases :
    ∃ a b d : Attributes, (a.maxHold = 0 ∧ b.maxHold ≠ 0 ∧ b.defaultHold = 0 ∧ (1 : Ticks) ≤ b.maxHold)
      ∧ (d.maxHold ≠ 0 ∧ d.defaultHold ≠ 0 ∧ d.defaultHold ≤ d.maxHold)
      ∧ (1 : Ticks) ≠ 0 ∧ b.maxHold < 65535
      ∧ effectiveHold (sample.record 1).attrs 0 ≠ 0
      ∧ effectiveHold Record.cleared.attrs 0 = 0 :=
  ⟨attrs 0 0, { attrs 0 0 with maxHold := 1, defaultHold := 0 }, { attrs 0 0 with maxHold := 100 },
    by decide +kernel⟩

theorem witness_EffectiveHoldCases_default_too_long :
    ∃ a : Attributes, a.maxHold ≠ 0 ∧ a.maxHold < a.defaultHold :=
  ⟨{ attrs 0 0 with maxHold := 99 }, by decide +kernel⟩

theorem witness_GateLevels :
    sample.gate 15 = none ∧ sample.RecordsWf
      ∧ (sample.gate 0).any (fun b => (sample.gate 1).any fun b' =>
          decide (b.resource = b'.resource ∧ b.client ≠ b'.client ∧ b.cover = .exclusiveOnly
            ∧ b'.cover = .exclusiveOnly ∧ b.polarity = .highActive ∧ b'.polarity = .lowActive))
        = true :=
  ⟨by decide +kernel, witness_RecordsWf, by decide +kernel⟩

theorem witness_ClientFrameRefusals :
    sample.between 0 = true
      ∧ (∃ row ∈ clientRows, (1 : Byte) ≠ goodCrc row.code 1 [] ∧ row.length ≠ 0)
      ∧ (∃ row ∈ clientRows, row.length = 1 ∧ row.inRange [64] = false)
      ∧ (∃ row ∈ clientRows, row.length = 6 ∧ row.inRange [0, 2, 0, 0, 0, 0] = false)
      ∧ (clientRows.all fun row => row.code != 0x00) = true
      ∧ (clientRows.all fun row => row.code != 0x40) = true
      ∧ 17 ≤ (17 : Byte).toNat ∧ (List.replicate 16 (0 : Byte)).length ≤ 16 := by decide +kernel

theorem witness_ReplayGuardDecides :
    answeredBefore.between 3 = true ∧ (5 : Byte) ≠ 0 ∧ (5 : Byte) = (answeredBefore.cpi 3).lastTag
      ∧ (answeredBefore.cpi 3).lastResponse.isSome = true
      ∧ (∃ row ∈ clientRows, row.length = 0 ∧ row.inRange [] = true
          ∧ (answeredBefore.cpi 3).lastRequest = frameBytes row.code 5 [])
      ∧ (∃ row ∈ clientRows, row.length = 0 ∧ row.inRange [] = true
          ∧ (answeredBefore.cpi 3).lastRequest ≠ frameBytes row.code 5 [])
      ∧ answeredBefore.fresh 3 0 ∧ answeredBefore.fresh 3 6 := by decide +kernel

theorem witness_DisabledPortRefusesTheOthers :
    disabledPort.between 3 = true ∧ disabledPort.fresh 3 1 ∧ disabledPort.enabled 3 = false
      ∧ ∃ row ∈ clientRows, row.code ≠ 0x01 ∧ row.code ≠ 0x20 ∧ [0, 0].length = row.length
          ∧ row.inRange [0, 0] = true := by decide +kernel

theorem witness_SessionAndNumberChecks :
    (State.reset.reaches 0 1 ∧ State.reset.attached 0 = false)
      ∧ (sample.reaches 0 1 ∧ sample.attached 0 = true)
      ∧ (∃ row ∈ clientRows, row.code ≠ 0x01 ∧ row.code ≠ 0x02 ∧ row.code ≠ 0x20
          ∧ row.length = 0 ∧ row.inRange [] = true)
      ∧ (∃ row ∈ clientRows, 0x10 ≤ row.code.toNat ∧ row.code.toNat ≤ 0x16
          ∧ [64].length = row.length ∧ row.inRange [64] = true
          ∧ 64 ≤ (([64] : List Byte).getD 0 0).toNat)
      ∧ ∃ row ∈ clientRows, row.code.toNat = 0x10 ∧ [255, 1, 0, 0, 0, 0].length = row.length
          ∧ row.inRange [255, 1, 0, 0, 0, 0] = true := by decide +kernel

theorem witness_StatusReports :
    sample.between 0 = true ∧ sample.fresh 0 1 ∧ disabledPort.between 3 = true
      ∧ disabledPort.fresh 3 1 := by decide +kernel

/-- OPEN is answered OK at the greatest TTL the policy allows, and refused one tick above it, for a
client that is ATTACHED, and for one with an unread session notice. -/
theorem witness_OpenStartsASession :
    State.reset.reaches 0 1
      ∧ leads (exec (.openSession 0 1 [0, 9] (goodCrc 0x02 1 [0, 9]))
          (State.reset.setSession 0 { State.reset.session 0 with
            policy := { enabled := true, maxTtl := 9, unwatched := false } }))
          (fun t => answers t 0 1 .ok [0, 1]) = true
      ∧ leads (exec (.openSession 0 1 [0, 10] (goodCrc 0x02 1 [0, 10]))
          (State.reset.setSession 0 { State.reset.session 0 with
            policy := { enabled := true, maxTtl := 9, unwatched := false } }))
          (fun t => answers t 0 1 .ttlRefused []) = true
      ∧ leads (exec (.openSession 0 1 [0, 9] (goodCrc 0x02 1 [0, 9])) sample)
          (fun t => answers t 0 1 .alreadyOpen []) = true
      ∧ leads (exec (.openSession 0 1 [0, 9] (goodCrc 0x02 1 [0, 9])) (sample.lapseNow 0))
          (fun t => answers t 0 1 .lapseUnread []) = true := by decide +kernel

theorem witness_CloseEndsTheSession :
    sample.RecordsWf ∧ sample.WaitersWf ∧ sample.InvolvementWf ∧ sample.reaches 0 1
      ∧ sample.attached 0 = true :=
  ⟨witness_RecordsWf, witness_WaitersWf, witness_InvolvementWf, by decide +kernel,
    by decide +kernel⟩

theorem witness_KeepaliveRenewsTheSession :
    sample.attached 0 = true ∧ State.reset.attached 0 = false ∧ sample.reaches 0 1 := by
  decide +kernel

theorem witness_ClaimGrantedAtOnce :
    sample.reaches 3 1 ∧ sample.attached 3 = true
      ∧ ((sample.record 0).retirePending = false
        ∧ (sample.record 0).attrs.mask.getLsbD 3 = true ∧ (sample.record 0).attrs.modes = .either
        ∧ sample.holds 0 3 = false ∧ sample.waits 0 3 = false ∧ (sample.session 3).tally < 15
        ∧ sample.nextToken ≠ 0 ∧ (sample.record 0).state = .idle)
      ∧ ((sample.record 7).retirePending = false
        ∧ (sample.record 7).attrs.mask.getLsbD 0 = true ∧ (sample.record 7).attrs.modes = .either
        ∧ sample.holds 7 0 = false ∧ sample.waits 7 0 = false
        ∧ (sample.record 7).state = .held ∧ (sample.record 7).heldMode = some .shared
        ∧ sample.queue 7 = []) ∧ sample.reaches 0 1 ∧ sample.attached 0 = true
      ∧ (lastToken (BitVec.allOnes 48)).nextToken ≠ 0 := by decide +kernel

theorem witness_ClaimWaitsOrIsRefused :
    sample.RecordsWf ∧ sample.PoolWf ∧ sample.QueuesWf ∧ sample.reaches 3 1
      ∧ sample.attached 3 = true
      ∧ firstFailing (sample.claimChecks 3 1 .exclusive) = none
      ∧ (sample.record 1).state ≠ .idle ∧ (sample.record 1).heldMode ≠ some .shared
      ∧ half 0 0 = 0 ∧ half 255 255 ≠ 0
      ∧ sample.entry 3 = none ∧ (∀ j < (3 : PoolIx), sample.entry j ≠ none) :=
  ⟨witness_RecordsWf, witness_PoolWf, witness_QueuesWf, by decide +kernel⟩

theorem witness_ClaimWaitsOrIsRefused_poolFull :
    fullPool.RecordsWf ∧ fullPool.PoolWf ∧ fullPool.QueuesWf ∧ fullPool.reaches 3 1
      ∧ fullPool.attached 3 = true
      ∧ firstFailing (fullPool.claimChecks 3 1 .exclusive) = none
      ∧ (fullPool.record 1).state ≠ .idle ∧ (fullPool.record 1).heldMode ≠ some .shared
      ∧ ∀ i : PoolIx, fullPool.entry i ≠ none :=
  ⟨by decide +kernel, by decide +kernel, by decide +kernel, by decide +kernel⟩

/-- Each check of TABLE 2-3 is the first that fails somewhere. -/
theorem witness_ClaimRefusedInOrder :
    sample.reaches 0 1 ∧ sample.attached 0 = true
      ∧ firstFailing (sample.claimChecks 0 5 .shared) = some .offline
      ∧ firstFailing (sample.claimChecks 1 6 .shared) = some .retiring
      ∧ firstFailing ((sample.setRecord 0 (record .idle none []
          { attrs 0 0 with mask := 14 })).claimChecks 0 0 .shared) = some .notPermitted
      ∧ firstFailing ((sample.setRecord 0 (record .idle none []
          { attrs 0 0 with modes := .exclusiveOnly })).claimChecks 0 0 .shared) = some .modeRefused
      ∧ firstFailing (sample.claimChecks 0 1 .shared) = some .alreadyHeld
      ∧ firstFailing (sample.claimChecks 1 1 .shared) = some .alreadyWaiting
      ∧ firstFailing ((sample.setSession 3 { sample.session 3 with
          involved := Vector.ofFn fun r => decide (48 < r.val) }).claimChecks 3 0 .shared)
        = some .quota
      ∧ firstFailing ((lastToken 0).claimChecks 3 0 .shared) = some .exhausted := by decide +kernel

theorem witness_RenewRearmsTheHold :
    sample.reaches 0 1 ∧ sample.attached 0 = true ∧ sample.reaches 1 1 ∧ sample.attached 1 = true
      ∧ sample.holds 1 0 = true ∧ (sample.record 1).state ≠ .revoking
      ∧ sample.holds 1 1 = false ∧ sample.holds 3 1 = true
      ∧ (sample.record 3).state = .revoking := by decide +kernel

theorem witness_ReleaseEndsTheLease :
    sample.RecordsWf ∧ sample.WaitersWf ∧ sample.reaches 0 1 ∧ sample.attached 0 = true
      ∧ sample.holds 0 0 = false ∧ sample.holds 2 0 = true ∧ sample.waits 2 0 = true
      ∧ sample.holds 1 0 = true ∧ sample.waits 1 0 = false
      ∧ sample.reaches 1 1 ∧ sample.attached 1 = true
      ∧ (sample.holds 2 1 = true ∧ sample.waits 2 1 = false ∧ (sample.record 2).holders ≠ [1]
        ∧ (sample.record 2).state = .held) :=
  ⟨witness_RecordsWf, witness_WaitersWf, by decide +kernel⟩

theorem witness_LastReleaseDrainsOrFrees :
    sample.RecordsWf ∧ sample.reaches 3 1 ∧ sample.attached 3 = true
      ∧ ((sample.record 7).holders = [3] ∧ sample.queue 7 = [] ∧ (sample.record 7).attrs.guard ≠ 0)
      ∧ sample.reaches 1 1 ∧ sample.attached 1 = true
      ∧ ((sample.record 3).holders = [1] ∧ sample.queue 3 = []
        ∧ (sample.record 3).state = .revoking)
      ∧ sample.reaches 0 1 ∧ sample.attached 0 = true
      ∧ ((sample.record 6).holders = [0] ∧ sample.queue 6 = [] ∧ (sample.record 6).attrs.guard = 0
        ∧ (sample.record 6).retirePending = true) :=
  ⟨witness_RecordsWf, by decide +kernel⟩

/-- The last holder of resource 1 leaves with C1 waiting behind it. -/
theorem witness_LastReleaseDrainsOrFrees_waiters :
    sample.reaches 0 1 ∧ sample.attached 0 = true ∧ (sample.record 1).holders = [0]
      ∧ sample.queue 1 = [0] ∧ sample.waits 1 0 = false := by decide +kernel

/-- The sample with C0 alone on resource 2, its UPGRADE entry still at the head because the counter
was exhausted when C1 left. -/
def stranded : State :=
  { sample with
    nextToken := 0
    records := Vec.set sample.records 2 (record .held (some .shared) [(0, 2)] (attrs 0 5)) }

theorem witness_LastReleaseDrainsOrFrees_upgrade :
    stranded.RecordsWf ∧ stranded.WaitersWf ∧ stranded.reaches 0 1 ∧ stranded.attached 0 = true
      ∧ (stranded.record 2).holders = [0] ∧ (1 : PoolIx) ∈ stranded.queue 2
      ∧ stranded.entryOf 0 1 = true :=
  ⟨by decide +kernel, ⟨by decide +kernel, by decide +kernel,
    ⟨by decide +kernel, by decide +kernel, by decide +kernel⟩, by decide +kernel⟩,
    by decide +kernel⟩

theorem witness_LastReleaseDrainsOrFrees_idle :
    (sample.setQueue 1 []).RecordsWf ∧ (sample.setQueue 1 []).reaches 0 1
      ∧ (sample.setQueue 1 []).attached 0 = true
      ∧ ((sample.setQueue 1 []).record 1).holders = [0] ∧ (sample.setQueue 1 []).queue 1 = []
      ∧ ((sample.setQueue 1 []).record 1).attrs.guard = 0
      ∧ ((sample.setQueue 1 []).record 1).retirePending = false := by decide +kernel

theorem witness_DowngradeKeepsTheLease :
    sample.reaches 0 1 ∧ sample.attached 0 = true ∧ sample.holds 1 0 = true
      ∧ (sample.record 1).heldMode = some .exclusive
      ∧ (sample.record 1).attrs.modes ≠ .exclusiveOnly ∧ (sample.record 1).state ≠ .revoking
      ∧ sample.holds 0 0 = false ∧ (sample.record 2).heldMode ≠ some .exclusive := by decide +kernel

theorem witness_UpgradeOfTheSoleHolder :
    sample.reaches 3 1 ∧ sample.attached 3 = true ∧ sample.holds 7 3 = true
      ∧ (sample.record 7).heldMode ≠ some .exclusive ∧ (sample.record 7).attrs.modes ≠ .sharedOnly
      ∧ (sample.record 7).retirePending = false ∧ (sample.record 7).state ≠ .revoking
      ∧ (∀ i ∈ sample.queue 7, sample.isUpgrade i = false) ∧ sample.nextToken ≠ 0
      ∧ (sample.record 7).holders = [3] := by decide +kernel

theorem witness_UpgradeWaitsOrIsRefused :
    noWaiters.reaches 0 1 ∧ noWaiters.attached 0 = true ∧ noWaiters.holds 2 0 = true
      ∧ (noWaiters.record 2).heldMode ≠ some .exclusive
      ∧ (noWaiters.record 2).attrs.modes ≠ .sharedOnly
      ∧ (noWaiters.record 2).retirePending = false ∧ (noWaiters.record 2).state ≠ .revoking
      ∧ (∀ i ∈ noWaiters.queue 2, noWaiters.isUpgrade i = false) ∧ noWaiters.nextToken ≠ 0
      ∧ (noWaiters.record 2).holders ≠ [0] ∧ half 0 0 = 0 ∧ half 255 255 ≠ 0 ∧ half 0 1 ≠ 0
      ∧ noWaiters.entry 1 = none ∧ (∀ j < (1 : PoolIx), noWaiters.entry j ≠ none) := by
  decide +kernel

theorem witness_UpgradeWaitsOrIsRefused_poolFull :
    (fullPool.setQueue 2 []).reaches 0 1 ∧ (fullPool.setQueue 2 []).attached 0 = true
      ∧ (fullPool.setQueue 2 []).holds 2 0 = true
      ∧ ((fullPool.setQueue 2 []).record 2).heldMode ≠ some .exclusive
      ∧ ((fullPool.setQueue 2 []).record 2).attrs.modes ≠ .sharedOnly
      ∧ ((fullPool.setQueue 2 []).record 2).retirePending = false
      ∧ ((fullPool.setQueue 2 []).record 2).state ≠ .revoking
      ∧ (fullPool.setQueue 2 []).queue 2 = [] ∧ (fullPool.setQueue 2 []).nextToken ≠ 0
      ∧ ((fullPool.setQueue 2 []).record 2).holders ≠ [0]
      ∧ ∀ i : PoolIx, (fullPool.setQueue 2 []).entry i ≠ none := by decide +kernel

/-- Each check of TABLE 3-3 is the first that fails somewhere. -/
theorem witness_UpgradeRefusedInOrder :
    sample.reaches 0 1 ∧ sample.attached 0 = true
      ∧ firstFailing (sample.upgradeChecks 0 0) = some .notHeld
      ∧ firstFailing (sample.upgradeChecks 0 1) = some .alreadyHeld
      ∧ firstFailing ((sample.setRecord 7 (record .held (some .shared) [(3, 6)]
          { attrs 0 0 with modes := .sharedOnly })).upgradeChecks 3 7) = some .modeRefused
      ∧ firstFailing ((sample.setRecord 7
          { sample.record 7 with retirePending := true }).upgradeChecks 3 7) = some .retiring
      ∧ firstFailing (sample.upgradeChecks 1 3) = some .revoking
      ∧ firstFailing (sample.upgradeChecks 0 2) = some .alreadyWaiting
      ∧ firstFailing (sample.upgradeChecks 1 2) = some .upgradeConflict
      ∧ firstFailing ((lastToken 0).upgradeChecks 3 7) = some .exhausted := by decide +kernel

theorem witness_WithdrawRemovesTheEntry :
    sample.PoolWf ∧ sample.OneWaitEach ∧ sample.reaches 1 1 ∧ sample.attached 1 = true
      ∧ sample.waits 0 1 = false ∧ (0 : PoolIx) ∈ sample.queue 1 ∧ sample.entryOf 1 0 = true :=
  ⟨witness_PoolWf, witness_OneWaitEach, by decide +kernel⟩

theorem witness_QueryReports :
    sample.PoolWf ∧ sample.reaches 0 1 ∧ sample.attached 0 = true
      ∧ (sample.record 2).state ≠ .offline ∧ (sample.record 2).attrs.mask.getLsbD 0 = true
      ∧ (sample.record 5).state = .offline :=
  ⟨witness_PoolWf, by decide +kernel⟩

theorem witness_FetchTakesTheHead :
    sample.between 0 = true ∧ sample.fresh 0 1 ∧ (sample.noticeQueue 0).queue = []
      ∧ sample.between 1 = true ∧ sample.fresh 1 1
      ∧ (sample.noticeQueue 1).queue.head? = some (.resource 9 .claimCancelled 0) := by
  decide +kernel

theorem witness_SetAttentionMovesTheLine :
    sample.reaches 1 1 ∧ sample.attached 1 = true ∧ (0 : Byte).toNat < 64
      ∧ (63 : Byte).toNat < 64 := by decide +kernel

theorem witness_CutTransactionEndsIt :
    (sample.cpi 0).framing = .idle ∧ receive [] = .short ∧ receive [0x10, 1] = .short
      ∧ ((sample.setFraming 0 (.receiving [0x10])).cpi 0).framing = .receiving [0x10]
      ∧ receive ([0x10] ++ [1]) = .short
      ∧ ((sample.setFraming 0 .done).cpi 0).framing = .done
      ∧ (answeredBefore.cpi 3).framing
        = .responding { status := .ok, tag := 5, replay := false, payload := [0, 0] } 0
      ∧ clientRows ≠ [] :=
  ⟨by decide +kernel, by decide +kernel, by decide +kernel, by decide +kernel, by decide +kernel,
    by decide +kernel, by decide +kernel, List.cons_ne_nil _ _⟩

/-- A port half way through a request meets the premise of the last clause. -/
theorem witness_CutTransactionEndsIt_between :
    ∀ before, ((sample.setFraming 0 (.receiving [0x10])).cpi 0).framing = .receiving before →
      receive before = .short := by
  intro before h
  rw [State.cpi_setFraming] at h
  cases h
  rfl

theorem witness_RetireCancelsEveryWaiter :
    sample.RecordsWf ∧ sample.WaitersWf ∧ 64 ≤ (64 : Byte).toNat
      ∧ (sample.record 5).state = .offline
      ∧ ((sample.record 6).state ≠ .offline ∧ (sample.record 6).retirePending = true)
      ∧ (sample.record 0).state = .idle
      ∧ ((sample.record 2).state ≠ .offline ∧ (sample.record 2).retirePending = false) :=
  ⟨witness_RecordsWf, witness_WaitersWf, by decide +kernel⟩

theorem witness_Inspections :
    64 ≤ (64 : Byte).toNat ∧ 2 ≤ (2 : Byte).toNat ∧ 32 ≤ (32 : Byte).toNat
      ∧ (31 : Byte).toNat < 32 ∧ (∀ i ∈ sample.queue 2, sample.entry i ≠ none)
      ∧ 4 ≤ (4 : Byte).toNat ∧ 160 ≤ (160 : Byte).toNat ∧ (159 : Byte).toNat < 160 := by
  decide +kernel

theorem witness_RevokeWithGraceWarns :
    sample.RecordsWf ∧ sample.WaitersWf ∧ 64 ≤ (64 : Byte).toNat
      ∧ (sample.record 5).state = .offline ∧ (sample.record 3).state = .revoking
      ∧ (sample.record 0).state = .idle
      ∧ ((sample.record 2).state = .held ∧ (sample.record 2).attrs.grace ≠ 0) :=
  ⟨witness_RecordsWf, witness_WaitersWf, by decide +kernel⟩

theorem witness_RevokeAtOnceRemovesHolders :
    sample.RecordsWf ∧ sample.WaitersWf
      ∧ ((sample.record 1).state = .held ∧ (sample.record 1).attrs.grace = 0)
      ∧ ((sample.record 7).state = .held ∧ (sample.record 7).attrs.grace = 0
        ∧ (sample.record 7).attrs.guard ≠ 0) :=
  ⟨witness_RecordsWf, witness_WaitersWf, by decide +kernel⟩

theorem witness_UnbindGateDropsThePin :
    16 ≤ (16 : Byte).toNat ∧ (15 : Byte).toNat < 16 := by decide +kernel

theorem witness_SetPolicyMayEvict :
    sample.attached 0 = true ∧ State.reset.attached 0 = false ∧ sample.RecordsWf
      ∧ sample.WaitersWf ∧ sample.InvolvementWf :=
  ⟨by decide +kernel, by decide +kernel, witness_RecordsWf, witness_WaitersWf,
    witness_InvolvementWf⟩

theorem witness_EvictEndsTheSession :
    4 ≤ (4 : Byte).toNat ∧ State.reset.attached 0 = false ∧ sample.attached 0 = true
      ∧ sample.RecordsWf ∧ sample.WaitersWf ∧ sample.InvolvementWf :=
  ⟨by decide +kernel, by decide +kernel, by decide +kernel, witness_RecordsWf, witness_WaitersWf,
    witness_InvolvementWf⟩

theorem witness_EventSetRequests :
    2048 ≤ (half 8 0).toNat ∧ (half 7 255).toNat < 2048 := by decide +kernel

theorem witness_SupervisorFrameRefusals :
    (∃ row ∈ supervisorRows, (1 : Byte) ≠ goodCrc row.code 1 [])
      ∧ (∃ row ∈ supervisorRows, row.length ≠ 0)
      ∧ (supervisorRows.all fun row => row.code != 0x01) = true
      ∧ 17 ≤ (17 : Byte).toNat := by decide +kernel

theorem witness_IncompleteWriteLeavesItsMark :
    receive [] = .short ∧ receive [0x40, 9, 16] = .short :=
  ⟨by decide +kernel, by decide +kernel⟩

theorem witness_TickDeliversWhatIsDue :
    sample.timebase.source ≠ .external ∧ sample.timebase.source = .internal
      ∧ (∀ d ∈ sample.deadlines, d.due ≠ sample.clock + 1)
      ∧ (sample.setClock 11).DeadlinesWf
      ∧ (sample.setClock 11).deadlines.head?.any (fun d => decide (d.due = 11 + 1)) = true
      ∧ ∀ d ∈ (sample.setClock 11).deadlines.tail, d.due ≠ 11 + 1 := by decide +kernel

/-- Three deadlines due at one tick, one of which the first delivery disarms (R77). -/
theorem test_tick_delivers_in_order :
    leads (exec (.tickEvent .internal)
        { sample with
          clock := 11
          deadlines := [⟨.grace 3, 12⟩, ⟨.hold 3 1, 12⟩, ⟨.wait 0, 12⟩, ⟨.guard 4, 13⟩] })
      (fun t => (t.entry 0).isNone && !t.holds 3 1
        && (t.noticeQueue 1).queue.any (fun n => n == .resource 3 (.leaseRevoked 4) 0)
        && t.deadlines == [⟨.guard 4, 13⟩, ⟨.guard 3, 18⟩]) = true := by decide +kernel

theorem witness_HoldExpiryEndsTheLease :
    sample.armed (.hold 5 0) = false ∧ sample.RecordsWf ∧ sample.WaitersWf
      ∧ sample.armed (.hold 2 0) = true
      ∧ ((sample.record 2).lease 0) = some { token := 2, grantedAt := 7 } :=
  ⟨by decide +kernel, witness_RecordsWf, witness_WaitersWf, by decide +kernel, by decide +kernel⟩

/-- The last holder and one of two, without an UPGRADE entry and with one. -/
theorem witness_HoldExpiryEndsTheLease_goes_on :
    (sample.armed (.hold 1 0) = true ∧ sample.waits 1 0 = false
        ∧ (sample.record 1).lease 0 = some { token := 1, grantedAt := 7 }
        ∧ (sample.record 1).holders = [0])
      ∧ (sample.armed (.hold 2 1) = true ∧ sample.waits 2 1 = false
        ∧ (sample.record 2).lease 1 = some { token := 3, grantedAt := 7 }
        ∧ (sample.record 2).holders ≠ [1] ∧ (sample.record 2).state = .held)
      ∧ (sample.armed (.hold 2 0) = true ∧ (1 : PoolIx) ∈ sample.queue 2
        ∧ sample.entryOf 0 1 = true ∧ (sample.record 2).holders ≠ [0])
      ∧ (stranded.armed (.hold 2 0) = true ∧ (1 : PoolIx) ∈ stranded.queue 2
        ∧ stranded.entryOf 0 1 = true ∧ (stranded.record 2).holders = [0]) := by decide +kernel

theorem witness_WaitExpiryRemovesTheEntry :
    sample.armed (.wait 1) = false ∧ sample.RecordsWf ∧ sample.WaitersWf
      ∧ sample.armed (.wait 0) = true
      ∧ sample.entry 0 = some { resource := 1, client := 1, kind := .exclusive, hold := 0 } :=
  ⟨by decide +kernel, witness_RecordsWf, witness_WaitersWf, by decide +kernel, by decide +kernel⟩

theorem witness_LapseEndsTheSession :
    sample.armed (.session 1) = false ∧ sample.RecordsWf ∧ sample.WaitersWf
      ∧ sample.InvolvementWf ∧ sample.armed (.session 0) = true ∧ sample.attached 0 = true :=
  ⟨by decide +kernel, witness_RecordsWf, witness_WaitersWf, witness_InvolvementWf,
    by decide +kernel, by decide +kernel⟩

theorem witness_GraceExpiryRemovesHolders :
    sample.armed (.grace 0) = false ∧ sample.RecordsWf ∧ sample.WaitersWf
      ∧ sample.armed (.grace 3) = true ∧ (sample.record 3).state = .revoking
      ∧ (sample.record 3).attrs.guard ≠ 0 :=
  ⟨by decide +kernel, witness_RecordsWf, witness_WaitersWf, by decide +kernel, by decide +kernel,
    by decide +kernel⟩

theorem witness_GuardExpiryEndsTheDrain :
    sample.armed (.guard 0) = false ∧ sample.armed (.guard 4) = true
      ∧ (sample.record 4).deadline = .guard ∧ (sample.record 4).retirePending = false
      ∧ ((sample.setRecord 4 { sample.record 4 with retirePending := true }).armed (.guard 4) = true
        ∧ ((sample.setRecord 4 { sample.record 4 with retirePending := true }).record
            4).retirePending = true) := by decide +kernel

/-- A head of each kind that the grant rule grants, and one that it does not. -/
theorem witness_GrantRuleGrantsHeadByHead :
    (sample.record 3).state = .revoking
      ∧ (sample.entry 0 = some { resource := 1, client := 1, kind := .exclusive, hold := 0 }
        ∧ (sample.queue 1).head? = some 0 ∧ (sample.record 1).holders ≠ [])
      ∧ ((sample.setRecord 1 (record .idle none [] (attrs 0 0))).record 1).holders = []
      ∧ (sample.entry 1 = some { resource := 2, client := 0, kind := .upgrade, hold := 9 }
        ∧ (sample.queue 2).head? = some 1 ∧ (sample.record 2).holders ≠ [0])
      ∧ ((sample.setRecord 2 (record .held (some .shared) [(0, 2)] (attrs 0 0))).record 2).holders
        = [0]
      ∧ ((sample.setEntry 0
          (some { resource := 1, client := 1, kind := .shared, hold := 0 })).entry 0).isSome = true
      ∧ sample.nextToken ≠ 0 := by decide +kernel

/-! What the steps that meet both outcomes of a match answer there -/

theorem test_renew_refused :
    leads (exec (.renew 1 1 [3, 0, 9] (goodCrc 0x11 1 [3, 0, 9])) sample)
      (fun t => answers t 1 1 .revoking []) = true := by decide +kernel

theorem test_bindGate_refused :
    leads (exec (.bindGate 1 [16, 64, 4, 2, 2] (goodCrc 0x50 1 [16, 64, 4, 2, 2])) sample)
      (fun t => stores t 1 .noGate []) = true := by decide +kernel

theorem test_setTimebase_refused :
    leads (exec (.setTimebase 1 [0, 3] (goodCrc 0x60 1 [0, 3])) sample)
      (fun t => stores t 1 .liveDeadlines []) = true := by decide +kernel

end Sys2Proof.Tests
end

section
/-! PROOF. The requests that read and write resource records, the two resets and CLEAR ALL. -/

namespace Sys2Proof.Machine

/-! Attribute sets (R5) -/

/-- The validation of R5, as the statements of DEFINE and AMEND write it. -/
abbrev attributesValid (m k : Byte) (maxHold defaultHold : Ticks) : Prop :=
  (m = 1 ∨ m = 2 ∨ m = 3) ∧ k ≠ 0 ∧ k.toNat < 16
    ∧ ¬(defaultHold ≠ 0 ∧ maxHold ≠ 0 ∧ maxHold < defaultHold)

/-- The modes permitted that a valid code names. -/
def modesOfCode (m : Byte) : ModesPermitted :=
  if m = 1 then .exclusiveOnly else if m = 2 then .sharedOnly else .either

theorem modesPermittedOf_of_valid {m : Byte} (h : m = 1 ∨ m = 2 ∨ m = 3) :
    modesPermittedOf m = some (modesOfCode m) := by
  rcases h with rfl | rfl | rfl <;> rfl

theorem modesPermittedOf_of_invalid {m : Byte} (h : ¬(m = 1 ∨ m = 2 ∨ m = 3)) :
    modesPermittedOf m = none := by
  obtain ⟨h1, h2, h3⟩ : m ≠ 1 ∧ m ≠ 2 ∧ m ≠ 3 := by simpa using h
  unfold modesPermittedOf
  rw [if_neg h1, if_neg h2, if_neg h3]

/-- A mask below 16 keeps its four low bits: it is 0 only when the byte is. -/
theorem mask_eq_zero_iff {k : Byte} (h : k.toNat < 16) : k.setWidth 4 = 0 ↔ k = 0 := by
  bv_omega

theorem flagsBelow_of_lt {k : Byte} (h : k.toNat < 16) : flagsBelow 4 k = some (k.setWidth 4) :=
  if_pos h

theorem flagsBelow_of_le {k : Byte} (h : ¬k.toNat < 16) : flagsBelow 4 k = none := if_neg h

theorem attributesOf_of_valid {m k : Byte} {maxHold defaultHold : Ticks} (guard grace : Ticks)
    (h : attributesValid m k maxHold defaultHold) :
    attributesOf m k maxHold defaultHold guard grace
      = some
        { modes := modesOfCode m, mask := k.setWidth 4, maxHold, defaultHold, guard, grace } := by
  obtain ⟨hm, hk, hk16, hold⟩ := h
  have hmask : k.setWidth 4 ≠ 0 := fun e => hk ((mask_eq_zero_iff hk16).mp e)
  have hgood : ¬(k.setWidth 4 = 0 ∨ (maxHold ≠ 0 ∧ defaultHold ≠ 0 ∧ maxHold < defaultHold)) := by
    tauto
  unfold attributesOf
  rw [modesPermittedOf_of_valid hm, flagsBelow_of_lt hk16]
  exact if_neg hgood

theorem attributesOf_of_invalid {m k : Byte} {maxHold defaultHold : Ticks} (guard grace : Ticks)
    (h : ¬attributesValid m k maxHold defaultHold) :
    attributesOf m k maxHold defaultHold guard grace = none := by
  unfold attributesOf
  by_cases hm : m = 1 ∨ m = 2 ∨ m = 3
  · rw [modesPermittedOf_of_valid hm]
    by_cases hk16 : k.toNat < 16
    · rw [flagsBelow_of_lt hk16]
      have hbad : k.setWidth 4 = 0
          ∨ (maxHold ≠ 0 ∧ defaultHold ≠ 0 ∧ maxHold < defaultHold) := by
        rw [mask_eq_zero_iff hk16]
        tauto
      exact if_pos hbad
    · rw [flagsBelow_of_le hk16]
  · rw [modesPermittedOf_of_invalid hm]

/-- The parameters of DEFINE and AMEND are judged as two more checks before the request's own. -/
theorem State.withAttributes_checked (s : State) (r m k h1 h0 d1 d0 u1 u0 c1 c0 : Byte)
    (checks : Res → Attributes → List (Bool × Status)) (taken : Res → Attributes → Decision) :
    s.withAttributes [r, m, k, h1, h0, d1, d0, u1, u0, c1, c0]
        (fun i a => s.checked (checks i a) (taken i a))
      = s.checked
          ((decide (r.toNat < 64), .noResource)
            :: (decide (attributesValid m k (half h1 h0) (half d1 d0)), .badParams)
            :: checks (Fin.ofNat 64 r.toNat)
                { modes := modesOfCode m, mask := k.setWidth 4, maxHold := half h1 h0
                  defaultHold := half d1 d0, guard := half u1 u0, grace := half c1 c0 })
          (taken (Fin.ofNat 64 r.toNat)
            { modes := modesOfCode m, mask := k.setWidth 4, maxHold := half h1 h0
              defaultHold := half d1 d0, guard := half u1 u0, grace := half c1 c0 }) := by
  show s.withNumber r _ = _
  unfold State.withNumber
  by_cases hr : r.toNat < 64
  · rw [numberBelow_of_lt hr, decide_eq_true hr]
    by_cases hv : attributesValid m k (half h1 h0) (half d1 d0)
    · rw [decide_eq_true hv]
      dsimp only
      rw [attributesOf_of_valid _ _ hv]
      rfl
    · rw [decide_eq_false hv]
      dsimp only
      rw [attributesOf_of_invalid _ _ hv]
      rfl
  · rw [numberBelow_of_le (Nat.le_of_not_lt hr), decide_eq_false hr]
    rfl

/-- A supervisor request whose rule is a list of checks answers the first that fails. -/
theorem State.supervisorRequest_refused {s : State} {q : SupervisorRequest} {tag : Byte}
    {params : List Byte} (hq : q.length ≤ 16) (hl : params.length = q.length)
    (hP : PortFree (q.rule params)) {checks : List (Bool × Status)} {d : Decision} {st : Status}
    (hrule : q.rule params s = s.checked checks d) (hf : firstFailing checks = some st) :
    s.supervisorRequest q tag params (goodCrc q.code tag params) = s.afterStored tag st [] := by
  rw [s.supervisorRequest_taken q tag params hq hl hP, hrule, State.checked_of_fail hf]
  rfl

/-- A supervisor request whose rule is a list of checks is carried out when they all pass. -/
theorem State.supervisorRequest_accepted {s : State} {q : SupervisorRequest} {tag : Byte}
    {params : List Byte} (hq : q.length ≤ 16) (hl : params.length = q.length)
    (hP : PortFree (q.rule params)) {checks : List (Bool × Status)} {d : Decision}
    (hrule : q.rule params s = s.checked checks d) (hf : firstFailing checks = none) :
    s.supervisorRequest q tag params (goodCrc q.code tag params)
      = d.state.afterStored tag d.status d.payload := by
  rw [s.supervisorRequest_taken q tag params hq hl hP, hrule, State.checked_of_pass hf]

/-- Settles O30: the validation of R5 is the second of three checks, and what DEFINE writes is the
record of R7. -/
theorem defineWritesTheRecord : Obligations.DefineWritesTheRecord := by
  intro s tag r m k h1 h0 d1 d0 u1 u0 c1 c0
  have hP : PortFree (defineRequest.rule [r, m, k, h1, h0, d1, d0, u1, u0, c1, c0]) :=
    portFree_define [r, m, k, h1, h0, d1, d0, u1, u0, c1, c0]
  have hrule := s.withAttributes_checked r m k h1 h0 d1 d0 u1 u0 c1 c0
    (fun i _ => [((s.record i).state == .offline, .alreadyDefined)])
    (fun i a => (s.setRecord i (Record.defined a)).answer .ok)
  split <;> rename_i hf
  · exact congrArg Host.Outcome.next (State.supervisorRequest_refused (by decide)
      rfl hP hrule hf)
  · exact congrArg Host.Outcome.next (State.supervisorRequest_accepted (by decide)
      rfl hP hrule hf)

/-! The exclusions of TABLE 1-7 -/

theorem modesOfCode_eq_exclusiveOnly {m : Byte} : modesOfCode m = .exclusiveOnly ↔ m = 1 := by
  unfold modesOfCode
  split
  · simp_all
  · split <;> simp_all

theorem modesOfCode_eq_sharedOnly {m : Byte} : modesOfCode m = .sharedOnly ↔ m = 2 := by
  unfold modesOfCode
  split
  · simp_all
  · split <;> simp_all

theorem mem_holders {x : Record} {c : Client} : c ∈ x.holders ↔ (x.lease c).isSome = true := by
  simp [Record.holders, allClients]

/-- The modes permitted that a code names exclude a mode exactly as TABLE 1-7 says. -/
theorem excludesMode_modesOfCode (m : Byte) (mode : Mode) :
    (modesOfCode m).excludesMode mode = true
      ↔ (mode = .exclusive ∧ m = 2) ∨ (mode = .shared ∧ m = 1) := by
  cases mode with
  | exclusive => simp [ModesPermitted.excludesMode, modesOfCode_eq_sharedOnly]
  | shared => simp [ModesPermitted.excludesMode, modesOfCode_eq_exclusiveOnly]

theorem getLsbD_mask (k : Byte) (c : Client) : (k.setWidth 4).getLsbD c.val = k.getLsbD c.val := by
  simp

/-- What the new attributes must admit of the holders (TABLE 1-7). -/
theorem excludesHolder_eq_false {x : Record} {a : Attributes} {m k : Byte}
    (hm : a.modes = modesOfCode m) (hk : a.mask = k.setWidth 4) :
    a.excludesHolder x = false
      ↔ ∀ c : Client, (x.lease c).isSome = true →
          k.getLsbD c.val = true ∧ ¬(x.heldMode = some .exclusive ∧ m = 2)
            ∧ ¬(x.heldMode = some .shared ∧ m = 1) := by
  unfold Attributes.excludesHolder
  rw [List.any_eq_false]
  refine forall_congr' fun c => ?_
  rw [mem_holders, hk, getLsbD_mask, hm]
  cases x.heldMode with
  | none => simp
  | some mode => cases mode <;> simp [← Bool.not_eq_true, excludesMode_modesOfCode]

/-- What the new attributes must admit of a wait entry (TABLE 1-7). -/
theorem excludesEntry_eq_false {e : WaitEntry} {a : Attributes} {m k : Byte}
    (hm : a.modes = modesOfCode m) (hk : a.mask = k.setWidth 4) :
    a.excludesEntry e = false
      ↔ k.getLsbD e.client.val = true ∧ ¬((e.kind = .exclusive ∨ e.kind = .upgrade) ∧ m = 2)
          ∧ ¬(e.kind = .shared ∧ m = 1) := by
  unfold Attributes.excludesEntry
  rw [hm, hk, getLsbD_mask, Bool.or_eq_false_iff, ← Bool.not_eq_true, excludesMode_modesOfCode]
  cases e.kind <;> simp [WaitKind.mode, and_comm]

/-- Every holder and every waiter of the resource is admitted by the modes code and the mask byte,
as the statement of AMEND writes TABLE 1-7. -/
abbrev State.admitsAll (s : State) (r : Res) (m k : Byte) : Prop :=
  (∀ c : Client, s.holds r c = true →
      k.getLsbD c.val = true ∧ ¬((s.record r).heldMode = some .exclusive ∧ m = 2)
        ∧ ¬((s.record r).heldMode = some .shared ∧ m = 1))
    ∧ ∀ i ∈ s.queue r, ∀ e ∈ s.entry i,
        k.getLsbD e.client.val = true ∧ ¬((e.kind = .exclusive ∨ e.kind = .upgrade) ∧ m = 2)
          ∧ ¬(e.kind = .shared ∧ m = 1)

theorem State.not_excludes {s : State} {r : Res} {a : Attributes} {m k : Byte}
    (hm : a.modes = modesOfCode m) (hk : a.mask = k.setWidth 4) :
    (!s.excludes r a) = decide (s.admitsAll r m k) := by
  rw [Bool.eq_iff_iff, Bool.not_eq_true', decide_eq_true_iff]
  unfold State.excludes
  rw [Bool.or_eq_false_iff, excludesHolder_eq_false hm hk, List.any_eq_false]
  refine and_congr Iff.rfl (forall₂_congr fun i _ => ?_)
  cases s.entry i with
  | none => simp
  | some e => simp only [Bool.not_eq_true, excludesEntry_eq_false hm hk, Option.mem_some_iff,
      forall_eq']

/-- Settles O31: AMEND's three checks follow the two of its parameters, and the last of them is the
IN_USE test of TABLE 1-7. -/
theorem amendReplacesTheAttributes : Obligations.AmendReplacesTheAttributes := by
  intro s tag r m k h1 h0 d1 d0 u1 u0 c1 c0
  have hP : PortFree (amendRequest.rule [r, m, k, h1, h0, d1, d0, u1, u0, c1, c0]) :=
    portFree_amend [r, m, k, h1, h0, d1, d0, u1, u0, c1, c0]
  have hrule := s.withAttributes_checked r m k h1 h0 d1 d0 u1 u0 c1 c0
    (fun i a => [((s.record i).state != .offline, .offline),
      (!(s.record i).retirePending, .retiring), (!s.excludes i a, .inUse)])
    (fun i a => (s.setRecord i { s.record i with attrs := a }).answer .ok)
  rw [State.not_excludes rfl rfl] at hrule
  split <;> rename_i hf
  · exact congrArg Host.Outcome.next (State.supervisorRequest_refused (by decide)
      rfl hP hrule hf)
  · exact congrArg Host.Outcome.next (State.supervisorRequest_accepted (by decide)
      rfl hP hrule hf)

/-! INSPECT RESOURCE -/

theorem Record.reportedMode_eq (x : Record) :
    x.reportedMode = if x.state = .held ∨ x.state = .revoking then x.heldMode else none := by
  unfold Record.reportedMode
  cases x.state <;> simp

theorem inspectResourceRule_record (s : State) (r : Res) :
    inspectResourceRule [numberByte r, 0] s = s.reply .ok (s.recordView r) := by
  show s.withNumber (numberByte r) _ = _
  unfold State.withNumber
  rw [numberBelow_numberByte (by decide)]
  rfl

theorem inspectResourceRule_holders (s : State) (r : Res) :
    inspectResourceRule [numberByte r, 1] s = s.reply .ok (s.holdersView r) := by
  show s.withNumber (numberByte r) _ = _
  unfold State.withNumber
  rw [numberBelow_numberByte (by decide)]
  rfl

theorem inspectResourceRule_noView (s : State) (r : Res) {v : Byte} (h : 2 ≤ v.toNat) :
    inspectResourceRule [numberByte r, v] s = s.answer .badParams := by
  have h0 : v ≠ 0 := by rintro rfl; simp at h
  have h1 : v ≠ 1 := by rintro rfl; simp at h
  show s.withNumber (numberByte r) _ = _
  unfold State.withNumber
  rw [numberBelow_numberByte (by decide)]
  dsimp only
  rw [if_neg h0, if_neg h1]

theorem inspectResourceRule_noResource (s : State) {n : Byte} (v : Byte) (h : 64 ≤ n.toNat) :
    inspectResourceRule [n, v] s = s.answer .noResource := by
  show s.withNumber n _ = _
  unfold State.withNumber
  rw [numberBelow_of_le h]

/-- INSPECT RESOURCE stores what its rule answers and changes nothing else. -/
theorem exec_inspectResource {s : State} {n v : Byte} {st : Status} {payload : List Byte}
    (tag : Byte) (h : inspectResourceRule [n, v] s = s.reply st payload) :
    exec (.inspectResource tag [n, v] (goodCrc 0x43 tag [n, v])) s
      = .next (s.afterStored tag st payload) := by
  have ht := s.supervisorRequest_taken inspectResourceRequest tag [n, v] (by decide) rfl
    (portFree_inspectResource [n, v])
  have hr : inspectResourceRequest.rule [n, v] s = s.reply st payload := h
  rw [hr] at ht
  exact congrArg Host.Outcome.next ht

theorem length_holders (s : State) (r : Res) :
    (s.record r).holders.length = (List.finRange 4).countP fun c => s.holds r c :=
  List.countP_eq_length_filter.symm

theorem heldModeCode_reportedMode (x : Record) :
    heldModeCode x.reportedMode
      = if x.state = .held ∨ x.state = .revoking then
          match x.heldMode with
          | none => 0
          | some .shared => 1
          | some .exclusive => 2
        else 0 := by
  rw [Record.reportedMode_eq]
  split
  · rcases x.heldMode with _ | _ | _ <;> rfl
  · rfl

theorem State.resourceRemaining_eq (s : State) (r : Res) :
    s.resourceRemaining r
      = match (s.record r).deadline with
        | .absent => (0 : Ticks)
        | .grace => s.remaining (.grace r)
        | .guard => s.remaining (.guard r) := by
  unfold State.resourceRemaining
  cases (s.record r).deadline <;> rfl

/-- Settles O33. -/
theorem inspectResourceReports : Obligations.InspectResourceReports := by
  intro s tag n v r
  refine ⟨fun h => exec_inspectResource tag (inspectResourceRule_noResource s v h),
    fun h => exec_inspectResource tag (inspectResourceRule_noView s r h),
    (exec_inspectResource tag (inspectResourceRule_record s r)).trans ?_,
    (exec_inspectResource tag (inspectResourceRule_holders s r)).trans ?_⟩
  · unfold State.recordView
    dsimp only
    rw [heldModeCode_reportedMode, State.resourceRemaining_eq, length_holders, BitVec.ofNat_toNat]
    rfl
  · unfold State.holdersView State.leaseBytes allClients
    rfl

/-! CLEAR ALL (R171) -/

/-- CLEAR ALL's update, table by table, in the statement's terms. -/
theorem State.clearAllNow_eq (s : State) :
    s.clearAllNow
      = { s with
          records := Vector.ofFn fun r => (s.record r).atRest
          entries := Vector.replicate 32 none
          queues := Vector.replicate 64 []
          deadlines := []
          sessions := Vector.ofFn fun c => (s.session c).atRest
          notices := Vector.ofFn fun c => (s.noticeQueue c).atRest
          cpis := Vector.ofFn fun p => (s.cpi p).atRest } := by
  have tabulate : ∀ {α : Type} {n : Nat} (f : α → α) (v : Vector α n),
      v.map f = Vector.ofFn fun i => f (Vec.get v i) := fun f v =>
    Vec.ext fun i => by rw [Vec.get_map, Vec.get_ofFn]
  unfold State.clearAllNow
  rw [tabulate, tabulate, tabulate, tabulate]
  rfl

/-- The write that carries CLEAR ALL leaves no trace of itself but the response. -/
theorem State.supervisorRequest_clearAll (s : State) (tag : Byte) :
    s.supervisorRequest clearAllRequest tag [] (goodCrc codeClearAll tag [])
      = s.clearAllNow.afterStored tag .ok [] := by
  have intact : Frame.intact
      { code := clearAllRequest.code, tag, params := [], crc := goodCrc codeClearAll tag [] }
        = true := by
    simp [Frame.intact, Frame.covered, goodCrc, clearAllRequest]
  obtain ⟨y, hy⟩ := s.beginWrite_eq
  show s.beginWrite.takeSupervisorFrame (some clearAllRequest) _ = _
  unfold State.takeSupervisorFrame
  rw [hy, if_pos intact]
  rfl

/-- Settles O43. -/
theorem clearAllKeepsTheConfiguration : Obligations.ClearAllKeepsTheConfiguration := by
  intro s tag
  refine congrArg Host.Outcome.next ((s.supervisorRequest_clearAll tag).trans ?_)
  rw [State.clearAllNow_eq]
  rfl

/-! The reset state -/

@[simp] theorem State.reset_record (r : Res) : State.reset.record r = Record.cleared :=
  Vec.get_replicate _ r

@[simp] theorem State.reset_entry (i : PoolIx) : State.reset.entry i = none := Vec.get_replicate _ i

@[simp] theorem State.reset_queue (r : Res) : State.reset.queue r = [] := Vec.get_replicate _ r

@[simp] theorem State.reset_session (c : Client) : State.reset.session c = Session.reset :=
  Vec.get_replicate _ c

@[simp] theorem State.reset_noticeQueue (c : Client) :
    State.reset.noticeQueue c = { queue := [], mask := BitVec.allOnes 6 } := Vec.get_replicate _ c

@[simp] theorem State.reset_deadlines : State.reset.deadlines = [] := rfl

@[simp] theorem Record.cleared_lease (c : Client) : Record.cleared.lease c = none :=
  Vec.get_replicate _ c

@[simp] theorem Record.cleared_holders : Record.cleared.holders = [] := by
  simp [Record.holders]

theorem Record.cleared_wf : Record.cleared.Wf := by
  simp [Record.Wf, Record.cleared_holders]
  simp [Record.cleared]

@[simp] theorem State.reset_holds (r : Res) (c : Client) : State.reset.holds r c = false := by
  simp [State.holds]

@[simp] theorem State.reset_entryOf (c : Client) (i : PoolIx) :
    State.reset.entryOf c i = false := by
  simp [State.entryOf]

theorem State.reset_recordsWf : State.reset.RecordsWf := fun r => by
  rw [State.reset_record]
  exact Record.cleared_wf

theorem State.reset_waitersWf : State.reset.WaitersWf := by
  refine ⟨⟨?_, ?_⟩, ?_, ⟨?_, ?_, ?_⟩, ?_⟩
  · simp
  · simp [State.waitsOn]
  · simp [State.OneWaitEach]
  · simp
  · simp
  · simp
  · simp [State.SessionsWf, Session.reset]

theorem State.reset_queuesWf : State.reset.QueuesWf := by
  refine ⟨?_, ?_⟩
  · simp
  · simp [State.settled]

theorem State.reset_ownersWf : State.reset.OwnersWf := by
  refine ⟨?_, ?_, fun r => ⟨?_, ?_⟩⟩
  · simp
  · simp [State.owns, State.attached, Session.reset]
  · simp [State.owns, Record.cleared]
  · simp [State.owns, Record.cleared]

theorem State.reset_involvementWf : State.reset.InvolvementWf := fun c r => by
  simp [Session.reset, Session.involves, Vec.get_replicate, State.concerns, State.waits,
    State.waitOf, State.unread]

theorem Session.reset_tally : Session.reset.tally = 0 := by
  simp [Session.tally, Session.involves, Session.reset, Vec.get_replicate]

/-- Settles O2: after reset every record is cleared and every table empty. -/
theorem resetMeetsEveryInvariant : Obligations.ResetMeetsEveryInvariant := by
  refine ⟨State.reset_recordsWf, ?_, State.reset_waitersWf, State.reset_queuesWf,
    State.reset_ownersWf, ?_, ?_, State.reset_involvementWf, ?_⟩
  · simp [State.DeadlinesWf]
  · simp [State.TokensWf, State.tokenOf]
  · simp [State.NoticesWf, PortState.admits, Session.reset]
  · simp [State.TallyWf, Session.reset_tally]

/-- Settles O3: every line is a function of tables that the reset has emptied. -/
theorem deviceResetRestoresEveryBlock : Obligations.DeviceResetRestoresEveryBlock := by
  intro s straps csLow
  refine ⟨_, rfl, rfl, fun c => ?_, ?_, fun g => ?_⟩
  · show ((Vec.get (Vector.replicate 4 _) c : NoticeQueue)).attention = false
    rw [Vec.get_replicate]
    rfl
  · simp [State.supervisorAttention, Supervisor.afterReset]
  · unfold State.gateLevel State.gate
    show (match (Vec.get (Vector.replicate 16 none) g : Option Binding) with
      | some b => _
      | none => false) = false
    rw [Vec.get_replicate]

end Sys2Proof.Machine
end

section
/-! PROOF. What one step can do: the events, each with the checks that let it happen, and that every
step is a run of them. An invariant is then proved event by event, once. -/

namespace Sys2Proof.Machine

/-! The core of the state: what leases, waits, sessions, notices and deadlines are made of -/

/-- The states differ at most in the ports, the event set, the gates, the timebase and the queues of
what waits outside the block. -/
structure SameCore (s t : State) : Prop where
  records : t.records = s.records
  nextToken : t.nextToken = s.nextToken
  entries : t.entries = s.entries
  queues : t.queues = s.queues
  clock : t.clock = s.clock
  deadlines : t.deadlines = s.deadlines
  sessions : t.sessions = s.sessions
  notices : t.notices = s.notices

theorem SameCore.refl (s : State) : SameCore s s := ⟨rfl, rfl, rfl, rfl, rfl, rfl, rfl, rfl⟩

theorem SameCore.trans {s t u : State} (h : SameCore s t) (k : SameCore t u) : SameCore s u :=
  ⟨k.records.trans h.records, k.nextToken.trans h.nextToken, k.entries.trans h.entries,
    k.queues.trans h.queues, k.clock.trans h.clock, k.deadlines.trans h.deadlines,
    k.sessions.trans h.sessions, k.notices.trans h.notices⟩

section
variable (s : State)

theorem State.setPending_sameCore (l : List Instr) : SameCore s (s.setPending l) :=
  ⟨rfl, rfl, rfl, rfl, rfl, rfl, rfl, rfl⟩

theorem State.setBus_sameCore (l : List BusEvent) : SameCore s (s.setBus l) :=
  ⟨rfl, rfl, rfl, rfl, rfl, rfl, rfl, rfl⟩

theorem State.setRefCount_sameCore (n : Nat) : SameCore s (s.setRefCount n) :=
  ⟨rfl, rfl, rfl, rfl, rfl, rfl, rfl, rfl⟩

theorem State.setTimebase_sameCore (x : Timebase) : SameCore s (s.setTimebase x) :=
  ⟨rfl, rfl, rfl, rfl, rfl, rfl, rfl, rfl⟩

theorem State.setGate_sameCore (g : Gate) (b : Option Binding) : SameCore s (s.setGate g b) :=
  ⟨rfl, rfl, rfl, rfl, rfl, rfl, rfl, rfl⟩

theorem State.setCpi_sameCore (p : Client) (x : Cpi) : SameCore s (s.setCpi p x) :=
  ⟨rfl, rfl, rfl, rfl, rfl, rfl, rfl, rfl⟩

theorem State.setSupervisor_sameCore (x : Supervisor) : SameCore s (s.setSupervisor x) :=
  ⟨rfl, rfl, rfl, rfl, rfl, rfl, rfl, rfl⟩

theorem State.raise_sameCore (e : EventSource) : SameCore s (s.raise e) :=
  s.setSupervisor_sameCore _

theorem State.setFraming_sameCore (p : Client) (f : CpiFraming) : SameCore s (s.setFraming p f) :=
  s.setCpi_sameCore p _

theorem State.linkError_sameCore (p : Client) : SameCore s (s.linkError p) :=
  (s.setCpi_sameCore p _).trans (State.raise_sameCore _ _)

theorem State.refuseFrame_sameCore (p : Client) (st : Status) (tag : Byte) :
    SameCore s (s.refuseFrame p st tag) :=
  (s.linkError_sameCore p).trans (State.setFraming_sameCore _ p _)

theorem State.csRise_sameCore (p : Client) : SameCore s (s.csRise p) := by
  unfold State.csRise
  split
  · exact (s.linkError_sameCore p).trans (State.setFraming_sameCore _ p _)
  · exact s.setFraming_sameCore p _
  · exact SameCore.refl s
  · exact s.setFraming_sameCore p _
  · exact s.setFraming_sameCore p _

theorem State.csFall_sameCore (p : Client) : SameCore s (s.csFall p) := by
  unfold State.csFall
  split
  · exact s.setFraming_sameCore p _
  · exact SameCore.refl s
  · exact SameCore.refl s
  · exact SameCore.refl s

theorem State.beginTransaction_sameCore (p : Client) : SameCore s (s.beginTransaction p) :=
  (s.csRise_sameCore p).trans (State.setFraming_sameCore _ p _)

theorem State.setSupervisorFraming_sameCore (f : SupervisorFraming) :
    SameCore s (s.setSupervisorFraming f) := s.setSupervisor_sameCore _

theorem State.storeResponse_sameCore (r : Response) : SameCore s (s.storeResponse r) :=
  s.setSupervisor_sameCore _

theorem State.endWrite_sameCore : SameCore s s.endWrite := by
  unfold State.endWrite
  split
  · exact s.storeResponse_sameCore _
  · exact SameCore.refl s
  · exact SameCore.refl s
  · exact SameCore.refl s

theorem State.beginWrite_sameCore : SameCore s s.beginWrite :=
  s.endWrite_sameCore.trans (State.setSupervisorFraming_sameCore _ _)

theorem State.sendByte_sameCore (ack : Bool) : SameCore s (s.sendByte ack) := by
  unfold State.sendByte
  split
  · exact s.setSupervisorFraming_sameCore _
  · exact SameCore.refl s
  · exact SameCore.refl s
  · exact SameCore.refl s
  · exact SameCore.refl s

theorem State.storeDecision_sameCore (d : Decision) (tag : Byte) :
    SameCore d.state (State.storeDecision d tag) :=
  (State.storeResponse_sameCore _ _).trans (State.setSupervisorFraming_sameCore _ _)

end

/-! The events -/

/-- What can happen to the core, each event with the checks that stand before it. A step is a run of
these (`step_events`). -/
inductive Event : State → State → Prop where
  /-- Nothing of the core changes. -/
  | outside {s t : State} (same : SameCore s t) : Event s t
  | deviceReset {s t : State} (same : SameCore State.reset t) : Event s t
  | clearAll {s : State} : Event s s.clearAllNow
  -- the lease clock
  | tick {s : State} : Event s s.tick
  | expiry {s : State} (id : DeadlineId) (armed : s.armed id = true) :
      Event s ((s.disarm id).deliver id)
  -- sessions and notices
  | kept {s : State} (c : Client) : Event s (s.keepSession c)
  | opened {s : State} (c : Client) (ttl : Ticks)
      (checks : firstFailing (s.openChecks c ttl) = none) : Event s (s.openNow c ttl)
  | closed {s : State} (c : Client) (attached : s.attached c = true) : Event s (s.closeNow c)
  | evicted {s : State} (c : Client) (attached : s.attached c = true) : Event s (s.evictNow c)
  | policySet {s : State} (c : Client) (p : Policy) :
      Event s (s.setSession c { s.session c with policy := p })
  | fetched {s : State} (c : Client) (n : Notice) (rest : List Notice)
      (head : (s.noticeQueue c).queue = n :: rest) :
      Event s ((s.setNoticeQueue c { s.noticeQueue c with queue := rest }).reportRemoved c n)
  | attentionSet {s : State} (c : Client) (m : BitVec 6) (attached : s.attached c = true) :
      Event s (s.setNoticeQueue c { s.noticeQueue c with mask := m })
  -- leases and waits
  | claimed {s : State} (c : Client) (r : Res) (m : Mode) (hold : Ticks)
      (attached : s.attached c = true) (checks : firstFailing (s.claimChecks c r m) = none)
      (now : s.grantableNow r m = true) : Event s (s.grant r c m hold)
  | claimQueued {s : State} (c : Client) (r : Res) (m : Mode) (hold wait : Ticks) (i : PoolIx)
      (attached : s.attached c = true) (checks : firstFailing (s.claimChecks c r m) = none)
      (later : s.grantableNow r m = false) (waits : wait ≠ 0) (free : s.freeIndex = some i) :
      Event s ((s.allocate i { resource := r, client := c, kind := m.waitKind, hold }
        (s.queue r ++ [i]) wait).grantRule r)
  | upgraded {s : State} (c : Client) (r : Res) (hold : Ticks) (attached : s.attached c = true)
      (checks : firstFailing (s.upgradeChecks c r) = none)
      (sole : (s.record r).holders = [c]) : Event s (s.grant r c .exclusive hold)
  | upgradeQueued {s : State} (c : Client) (r : Res) (hold wait : Ticks) (i : PoolIx)
      (attached : s.attached c = true) (checks : firstFailing (s.upgradeChecks c r) = none)
      (shared : (s.record r).holders ≠ [c]) (waits : wait ≠ 0) (free : s.freeIndex = some i) :
      Event s ((s.allocate i { resource := r, client := c, kind := .upgrade, hold }
        (i :: s.queue r) wait).grantRule r)
  | renewed {s : State} (c : Client) (r : Res) (hold : Ticks) (attached : s.attached c = true)
      (holds : s.holds r c = true) (steady : (s.record r).state ≠ .revoking) :
      Event s (s.arm (.hold r c) (effectiveHold (s.record r).attrs hold))
  | released {s : State} (c : Client) (r : Res) (attached : s.attached c = true)
      (holds : s.holds r c = true) : Event s ((s.removeUpgrade r c).endLease r c false)
  | downgraded {s : State} (c : Client) (r : Res) (attached : s.attached c = true)
      (checks : firstFailing (s.downgradeChecks c r) = none) :
      Event s
        (((s.setRecord r { s.record r with heldMode := some .shared }).report r c).grantRule r)
  | withdrawn {s : State} (c : Client) (r : Res) (i : PoolIx) (attached : s.attached c = true)
      (waits : s.waitOf r c = some i) : Event s ((s.removeEntry i).grantRule r)
  -- the supervisor's requests on resources
  | defined {s : State} (r : Res) (a : Attributes) (offline : (s.record r).state = .offline) :
      Event s (s.setRecord r (Record.defined a))
  | amended {s : State} (r : Res) (a : Attributes) (inUse : (s.record r).state ≠ .offline)
      (staying : (s.record r).retirePending = false) (admitted : s.excludes r a = false) :
      Event s (s.setRecord r { s.record r with attrs := a })
  | revoked {s : State} (r : Res) (held : (s.record r).state = .held)
      (grace : (s.record r).attrs.grace ≠ 0) : Event s (s.revokeWithGrace r)
  | revokedAtOnce {s : State} (r : Res) (held : (s.record r).state = .held)
      (grace : (s.record r).attrs.grace = 0) : Event s (s.revokeAtOnce r)
  | retired {s : State} (r : Res) (idle : (s.record r).state = .idle)
      (staying : (s.record r).retirePending = false) : Event s ((s.cancelQueue r).goOffline r)
  | retiring {s : State} (r : Res) (defined : (s.record r).state ≠ .offline)
      (busy : (s.record r).state ≠ .idle) (staying : (s.record r).retirePending = false) :
      Event s (s.retireInUse r)

/-- A run of events. -/
abbrev Events : State → State → Prop := Relation.ReflTransGen Event

theorem SameCore.events {s t : State} (h : SameCore s t) : Events s t := .single (.outside h)

theorem Event.events {s t : State} (h : Event s t) : Events s t := .single h

/-- An invariant of the events is one of their runs. -/
theorem Events.keep {P : State → Prop} (h : ∀ s t, Event s t → P s → P t) {s t : State}
    (run : Events s t) (hs : P s) : P t := by
  induction run with
  | refl => exact hs
  | tail _ e ih => exact h _ _ e ih

/-! The owners' rules are events -/

/-- The rule leaves its state by a run of events. -/
def ByEvents (rule : State → Decision) : Prop := ∀ s, Events s (rule s).state

theorem Events.checked {s : State} {l : List (Bool × Status)} {d : Decision}
    (h : firstFailing l = none → Events s d.state) : Events s (s.checked l d).state := by
  cases hl : firstFailing l with
  | some st => rw [State.checked_of_fail hl]; exact .refl
  | none => rw [State.checked_of_pass hl]; exact h hl

theorem Events.withResource {s : State} {c : Client} {r : Byte} {next : Res → Decision}
    (h : ∀ i, s.attached c = true → Events s (next i).state) :
    Events s (s.withResource c r next).state := by
  unfold State.withResource
  split
  · rename_i ha
    split
    · exact h _ ha
    · exact .refl
  · exact .refl

theorem Events.withNumber {s : State} {r : Byte} {next : Res → Decision}
    (h : ∀ i, Events s (next i).state) : Events s (s.withNumber r next).state := by
  unfold State.withNumber
  split
  · exact h _
  · exact .refl

theorem Events.withClient {s : State} {c : Byte} {next : Client → Decision}
    (h : ∀ i, Events s (next i).state) : Events s (s.withClient c next).state := by
  unfold State.withClient
  split
  · exact h _
  · exact .refl

theorem Events.withAttributes {s : State} {params : List Byte}
    {next : Res → Attributes → Decision} (h : ∀ r a, Events s (next r a).state) :
    Events s (s.withAttributes params next).state := by
  unfold State.withAttributes
  split
  · refine Events.withNumber fun r => ?_
    split
    · exact h _ _
    · exact .refl
  · exact .refl

/-- A request that must wait: refused, or queued in an event. -/
theorem Events.waitFor {s : State} {e : WaitEntry} {wait : Ticks} {place : PoolIx → List PoolIx}
    {position : Nat}
    (h : ∀ i, wait ≠ 0 → s.freeIndex = some i →
      Event s ((s.allocate i e (place i) wait).grantRule e.resource)) :
    Events s (s.waitFor e wait place position).state := by
  unfold State.waitFor
  split
  · exact .refl
  · rename_i hw
    split
    · exact (s.raise_sameCore .poolFull).events
    · rename_i i hi
      exact (h i hw hi).events

theorem claimRule_events (c : Client) (params : List Byte) : ByEvents (claimRule c params) := by
  intro s
  unfold claimRule
  split
  · split
    · rename_i m _
      refine Events.withResource fun r ha => Events.checked fun hc => ?_
      split
      · rename_i hnow
        exact (Event.claimed c r m _ ha hc hnow).events
      · rename_i hlater
        exact Events.waitFor fun i hw hi =>
          .claimQueued c r m _ _ i ha hc (Bool.not_eq_true _ ▸ hlater) hw hi
    · exact .refl
  · exact .refl

theorem renewRule_events (c : Client) (params : List Byte) : ByEvents (renewRule c params) := by
  intro s
  unfold renewRule
  split
  · refine Events.withResource fun r ha => Events.checked fun hc => ?_
    obtain ⟨hh, hs⟩ : s.holds r c = true ∧ (s.record r).state ≠ .revoking := by
      simpa [firstFailing_eq_none] using hc
    exact (Event.renewed c r _ ha hh hs).events
  · exact .refl

theorem releaseRule_events (c : Client) (params : List Byte) :
    ByEvents (releaseRule c params) := by
  intro s
  unfold releaseRule
  split
  · refine Events.withResource fun r ha => Events.checked fun hc => ?_
    have hh : s.holds r c = true := by simpa [firstFailing_eq_none] using hc
    exact (Event.released c r ha hh).events
  · exact .refl

theorem downgradeRule_events (c : Client) (params : List Byte) :
    ByEvents (downgradeRule c params) := by
  intro s
  unfold downgradeRule
  split
  · exact Events.withResource fun r ha => Events.checked fun hc =>
      (Event.downgraded c r ha hc).events
  · exact .refl

theorem upgradeRule_events (c : Client) (params : List Byte) :
    ByEvents (upgradeRule c params) := by
  intro s
  unfold upgradeRule
  split
  · refine Events.withResource fun r ha => Events.checked fun hc => ?_
    split
    · rename_i hsole
      exact (Event.upgraded c r _ ha hc (eq_of_beq hsole)).events
    · rename_i hshared
      exact Events.waitFor fun i hw hi =>
        .upgradeQueued c r _ _ i ha hc (fun h => hshared (beq_of_eq h)) hw hi
  · exact .refl

theorem withdrawRule_events (c : Client) (params : List Byte) :
    ByEvents (withdrawRule c params) := by
  intro s
  unfold withdrawRule
  split
  · refine Events.withResource fun r ha => ?_
    split
    · rename_i i hi
      exact (Event.withdrawn c r i ha hi).events
    · exact .refl
  · exact .refl

theorem queryRule_events (c : Client) (params : List Byte) : ByEvents (queryRule c params) := by
  intro s
  unfold queryRule
  split
  · exact Events.withResource fun r _ => Events.checked fun _ => .refl
  · exact .refl

theorem openRule_events (c : Client) (params : List Byte) : ByEvents (openRule c params) := by
  intro s
  unfold openRule
  split
  · exact Events.checked fun hc => (Event.opened c _ hc).events
  · exact .refl

theorem closeRule_events (c : Client) (params : List Byte) : ByEvents (closeRule c params) := by
  intro s
  unfold closeRule
  split
  · rename_i ha
    exact (Event.closed c ha).events
  · exact .refl

theorem keepaliveRule_events (c : Client) (params : List Byte) :
    ByEvents (keepaliveRule c params) := by
  intro s
  unfold keepaliveRule
  split <;> exact .refl

theorem fetchRule_events (c : Client) (params : List Byte) : ByEvents (fetchRule c params) := by
  intro s
  unfold fetchRule
  dsimp only
  split
  · exact .refl
  · rename_i n rest hq
    exact (Event.fetched c n rest hq).events

theorem setAttentionRule_events (c : Client) (params : List Byte) :
    ByEvents (setAttentionRule c params) := by
  intro s
  unfold setAttentionRule
  split
  · rename_i ha
    split
    · exact (Event.attentionSet c _ ha).events
    · exact .refl
  · exact .refl

/-- Every client request's rule runs by events. -/
theorem clientCatalogue_events {q : ClientRequest} (hq : q ∈ clientCatalogue) (p : Client)
    (params : List Byte) : ByEvents (q.rule p params) := by
  simp only [clientCatalogue, List.mem_cons, List.not_mem_nil, or_false] at hq
  rcases hq with rfl | rfl | rfl | rfl | rfl | rfl | rfl | rfl | rfl | rfl | rfl | rfl | rfl
  · exact fun _ => .refl
  · exact openRule_events p params
  · exact closeRule_events p params
  · exact keepaliveRule_events p params
  · exact claimRule_events p params
  · exact renewRule_events p params
  · exact releaseRule_events p params
  · exact downgradeRule_events p params
  · exact upgradeRule_events p params
  · exact withdrawRule_events p params
  · exact queryRule_events p params
  · exact fetchRule_events p params
  · exact setAttentionRule_events p params

theorem defineRule_events (params : List Byte) : ByEvents (defineRule params) := by
  refine fun s => Events.withAttributes fun r a => Events.checked fun hc => ?_
  have ho : (s.record r).state = .offline := by simpa [firstFailing_eq_none] using hc
  exact (Event.defined r a ho).events

theorem amendRule_events (params : List Byte) : ByEvents (amendRule params) := by
  refine fun s => Events.withAttributes fun r a => Events.checked fun hc => ?_
  obtain ⟨ho, hp, he⟩ : (s.record r).state ≠ .offline ∧ (s.record r).retirePending = false
      ∧ s.excludes r a = false := by simpa [firstFailing_eq_none] using hc
  exact (Event.amended r a ho hp he).events

theorem retireRule_events (params : List Byte) : ByEvents (retireRule params) := by
  intro s
  unfold retireRule
  split
  · refine Events.withNumber fun r => Events.checked fun hc => ?_
    obtain ⟨ho, hp⟩ : (s.record r).state ≠ .offline ∧ (s.record r).retirePending = false := by
      simpa [firstFailing_eq_none] using hc
    split
    · rename_i hi
      exact (Event.retired r hi hp).events
    · rename_i hi
      exact (Event.retiring r ho hi hp).events
  · exact .refl

theorem revokeRule_events (params : List Byte) : ByEvents (revokeRule params) := by
  intro s
  unfold revokeRule
  split
  · refine Events.withNumber fun r => Events.checked fun hc => ?_
    obtain ⟨-, -, hh⟩ : (s.record r).state ≠ .offline ∧ (s.record r).state ≠ .revoking
        ∧ (s.record r).state = .held := by
      simpa [firstFailing_eq_none, State.revokeChecks] using hc
    split
    · rename_i hg
      exact (Event.revokedAtOnce r hh (eq_of_beq hg)).events
    · rename_i hg
      exact (Event.revoked r hh fun h => hg (beq_of_eq h)).events
  · exact .refl

theorem inspectResourceRule_events (params : List Byte) :
    ByEvents (inspectResourceRule params) := by
  intro s
  unfold inspectResourceRule
  split
  · refine Events.withNumber fun r => ?_
    split
    · exact .refl
    · split <;> exact .refl
  · exact .refl

theorem inspectQueueRule_events (params : List Byte) : ByEvents (inspectQueueRule params) := by
  intro s
  unfold inspectQueueRule
  split
  · refine Events.withNumber fun r => ?_
    split <;> exact .refl
  · exact .refl

theorem bindGateRule_events (params : List Byte) : ByEvents (bindGateRule params) := by
  intro s
  unfold bindGateRule
  split
  · split
    · exact .refl
    · refine Events.withNumber fun r => Events.withClient fun c => ?_
      split
      · exact Events.checked fun _ => (s.setGate_sameCore _ _).events
      · exact .refl
  · exact .refl

theorem unbindGateRule_events (params : List Byte) : ByEvents (unbindGateRule params) := by
  intro s
  unfold unbindGateRule
  split
  · split
    · exact .refl
    · exact (s.setGate_sameCore _ _).events
  · exact .refl

/-- A policy that disables an ATTACHED client ends its session in the same step. -/
theorem setPolicyRule_events (params : List Byte) : ByEvents (setPolicyRule params) := by
  intro s
  unfold setPolicyRule
  split
  · refine Events.withClient fun c => ?_
    split
    · exact .refl
    · split
      · rename_i enabled unwatched _ _
        unfold State.setPolicyNow
        dsimp only
        split
        · rename_i h
          refine (Event.policySet c _).events.tail (Event.evicted c ?_)
          have ha : s.attached c = true := (Bool.and_eq_true_iff.mp h).1
          simpa [State.attached] using ha
        · exact (Event.policySet c _).events
      · exact .refl
  · exact .refl

theorem evictRule_events (params : List Byte) : ByEvents (evictRule params) := by
  intro s
  unfold evictRule
  split
  · refine Events.withClient fun c => Events.checked fun hc => ?_
    have ha : s.attached c = true := by simpa [firstFailing_eq_none] using hc
    exact (Event.evicted c ha).events
  · exact .refl

theorem inspectClientRule_events (params : List Byte) : ByEvents (inspectClientRule params) := by
  intro s
  unfold inspectClientRule
  split
  · exact Events.withClient fun _ => .refl
  · exact .refl

theorem setTimebaseRule_events (params : List Byte) : ByEvents (setTimebaseRule params) := by
  intro s
  unfold setTimebaseRule
  split
  · split
    · exact Events.checked fun _ =>
        ((s.setTimebase_sameCore _).trans (State.setRefCount_sameCore _ 0)).events
    · exact .refl
  · exact .refl

theorem listDeadlinesRule_events (params : List Byte) : ByEvents (listDeadlinesRule params) := by
  intro s
  unfold listDeadlinesRule
  split
  · split <;> exact .refl
  · exact .refl

theorem ackEventsRule_events (params : List Byte) : ByEvents (ackEventsRule params) := by
  intro s
  unfold ackEventsRule
  split
  · split
    · exact (s.setSupervisor_sameCore _).events
    · exact .refl
  · exact .refl

theorem setEventMaskRule_events (params : List Byte) : ByEvents (setEventMaskRule params) := by
  intro s
  unfold setEventMaskRule
  split
  · split
    · exact (s.setSupervisor_sameCore _).events
    · exact .refl
  · exact .refl

/-- Every supervisor request's rule runs by events. -/
theorem supervisorCatalogue_events {q : SupervisorRequest} (hq : q ∈ supervisorCatalogue)
    (params : List Byte) : ByEvents (q.rule params) := by
  simp only [supervisorCatalogue, List.mem_cons, List.not_mem_nil, or_false] at hq
  rcases hq with rfl | rfl | rfl | rfl | rfl | rfl | rfl | rfl | rfl | rfl | rfl | rfl | rfl | rfl
    | rfl | rfl | rfl | rfl
  · exact defineRule_events params
  · exact amendRule_events params
  · exact retireRule_events params
  · exact inspectResourceRule_events params
  · exact inspectQueueRule_events params
  · exact revokeRule_events params
  · exact bindGateRule_events params
  · exact unbindGateRule_events params
  · exact fun _ => .refl
  · exact setPolicyRule_events params
  · exact evictRule_events params
  · exact inspectClientRule_events params
  · exact setTimebaseRule_events params
  · exact listDeadlinesRule_events params
  · exact fun _ => .refl
  · exact ackEventsRule_events params
  · exact setEventMaskRule_events params
  · exact fun _ => Event.clearAll.events

/-! The ports run the rules -/

theorem State.execute_events (s : State) (p : Client) {q : ClientRequest} (f : Frame)
    (hq : q ∈ clientCatalogue) : Events s (s.execute p q f) := by
  have decided : Events s (s.decideRequest p q f.params).state := by
    unfold State.decideRequest
    split
    · exact (Event.kept p).events.trans (clientCatalogue_events hq p f.params _)
    · exact .refl
  exact decided.trans (State.setCpi_sameCore _ _ _).events

theorem State.replayGuard_events (s : State) (p : Client) {q : ClientRequest} (f : Frame)
    (hq : q ∈ clientCatalogue) : Events s (s.replayGuard p q f) := by
  unfold State.replayGuard
  dsimp only
  split
  · split
    · split <;> exact (s.setFraming_sameCore p _).events
    · exact (s.setFraming_sameCore p _).events
  · exact s.execute_events p f hq

theorem State.takeFrame_events (s : State) (p : Client) {q : Option ClientRequest} (f : Frame)
    (hq : ∀ x ∈ q, x ∈ clientCatalogue) : Events s (s.takeFrame p q f) := by
  unfold State.takeFrame
  split
  · split
    · split
      · exact s.replayGuard_events p f (hq _ rfl)
      · exact (s.refuseFrame_sameCore p _ _).events
    · exact (s.refuseFrame_sameCore p _ _).events
  · exact (s.refuseFrame_sameCore p _ _).events

theorem State.clientRequest_events (s : State) (p : Client) {q : ClientRequest} (tag : Byte)
    (params : List Byte) (crc : Byte) (hq : q ∈ clientCatalogue) :
    Events s (s.clientRequest p q tag params crc) := by
  unfold State.clientRequest
  refine (s.beginTransaction_sameCore p).events.trans ?_
  split
  · exact (State.refuseFrame_sameCore _ p _ _).events
  · exact State.takeFrame_events _ p _ fun x hx => Option.mem_some_iff.mp hx ▸ hq

theorem State.takeSupervisorFrame_events (s : State) {q : Option SupervisorRequest} (f : Frame)
    (hq : ∀ x ∈ q, x ∈ supervisorCatalogue) : Events s (s.takeSupervisorFrame q f) := by
  have refused : ∀ st, Events s (State.storeDecision (s.answer st) f.tag) := fun st =>
    (State.storeDecision_sameCore (s.answer st) f.tag).events
  unfold State.takeSupervisorFrame
  split
  · split
    · split
      · exact (supervisorCatalogue_events (hq _ rfl) _ s).trans
          (State.storeDecision_sameCore _ _).events
      · exact refused _
    · exact refused _
  · exact refused _

theorem State.supervisorRequest_events (s : State) {q : SupervisorRequest} (tag : Byte)
    (params : List Byte) (crc : Byte) (hq : q ∈ supervisorCatalogue) :
    Events s (s.supervisorRequest q tag params crc) := by
  unfold State.supervisorRequest
  refine s.beginWrite_sameCore.events.trans ?_
  split
  · exact (State.storeDecision_sameCore (s.beginWrite.answer _) _).events
  · exact State.takeSupervisorFrame_events _ _ fun x hx => Option.mem_some_iff.mp hx ▸ hq

theorem clientRequestOf_catalogue (code : Byte) :
    ∀ x ∈ clientRequestOf code, x ∈ clientCatalogue := fun _ hx => clientRequestOf_mem hx

theorem supervisorRequestOf_catalogue (code : Byte) :
    ∀ x ∈ supervisorRequestOf code, x ∈ supervisorCatalogue := fun _ hx =>
  supervisorRequestOf_mem hx

theorem State.clockByte_events (s : State) (p : Client) (si : Byte) :
    Events s (s.clockByte p si) := by
  unfold State.clockByte
  split
  · split
    · exact (s.setFraming_sameCore p _).events
    · exact (s.refuseFrame_sameCore p _ _).events
    · exact s.takeFrame_events p _ (clientRequestOf_catalogue _)
  · exact (s.setFraming_sameCore p _).events
  · exact .refl
  · exact .refl

theorem State.writeByte_events (s : State) (b : Byte) : Events s (s.writeByte b) := by
  unfold State.writeByte
  split
  · split
    · exact (s.setSupervisorFraming_sameCore _).events
    · exact (State.storeDecision_sameCore (s.answer _) _).events
    · exact s.takeSupervisorFrame_events _ (supervisorRequestOf_catalogue _)
  · exact .refl
  · exact .refl
  · exact .refl

theorem Events.foldl {α : Type} {f : State → α → State} (h : ∀ t a, Events t (f t a))
    (l : List α) (s : State) : Events s (l.foldl f s) := by
  induction l generalizing s with
  | nil => exact .refl
  | cons a rest ih => exact (h s a).trans (ih (f s a))

theorem State.bytesArrive_events (s : State) (p : Client) (l : List Byte) :
    Events s (s.bytesArrive p l) := Events.foldl (fun t b => t.clockByte_events p b) l s

theorem State.dataArrive_events (s : State) (l : List Byte) : Events s (s.dataArrive l) :=
  Events.foldl State.writeByte_events l s

theorem State.busEvent_events (s : State) (e : BusEvent) : Events s (s.busEvent e) := by
  cases e with
  | csFall p => exact (s.csFall_sameCore p).events
  | csRise p => exact (s.csRise_sameCore p).events
  | clock p si => exact s.clockByte_events p si
  | start a read =>
    exact (s.endWrite_sameCore.trans (State.setSupervisorFraming_sameCore _ _)).events
  | write b => exact s.writeByte_events b
  | read ack => exact (s.sendByte_sameCore ack).events
  | stop => exact (s.endWrite_sameCore.trans (State.setSupervisorFraming_sameCore _ _)).events

/-! The lease clock -/

theorem State.expire_events (s : State) (id : DeadlineId) : Events s (s.expire id) := by
  cases ha : s.armed id with
  | true => rw [State.expire_of_armed ha]; exact (Event.expiry id ha).events
  | false => rw [State.expire_of_not_armed ha]

theorem State.tickFrom_events (s : State) (src : TickSource) : Events s (s.tickFrom src) := by
  unfold State.tickFrom
  split
  · cases src with
    | internal => exact (s.setRefCount_sameCore 0).events.tail Event.tick
    | external => exact Event.tick.events
  · exact .refl

theorem State.referencePeriod_events (s : State) : Events s s.referencePeriod := by
  unfold State.referencePeriod
  split
  · split
    · exact (s.setRefCount_sameCore 0).events.tail Event.tick
    · exact (s.setRefCount_sameCore _).events
  · exact .refl

/-- What every delivery keeps, and the clock's advance, the whole tick keeps. -/
theorem State.tick_keeps {P : State → Prop}
    (clock : ∀ (s : State) (t : Clock), P s → P (s.setClock t))
    (due : ∀ (s : State) (d : Deadline) (rest : List Deadline), s.deadlines = d :: rest →
      P s → P ((s.setDeadlines rest).deliver d.id)) {s : State} (hs : P s) : P s.tick := by
  have run : ∀ (fuel : Nat) (t : State), P t → P (t.deliverDue fuel) := by
    intro fuel
    induction fuel with
    | zero => exact fun t ht => ht
    | succ n ih =>
      intro t ht
      unfold State.deliverDue
      split
      · rename_i d rest hd
        split
        · exact ih _ (due t d rest hd ht)
        · exact ht
      · exact ht
  exact run _ _ (clock s _ hs)

/-! Commands and steps -/

/-- Every command runs by events. -/
theorem exec_events {i : Instr} {s t : State} (h : exec i s = .next t) : Events s t := by
  have client : ∀ {q : ClientRequest} (p : Client) (tag : Byte) (params : List Byte) (crc : Byte),
      q ∈ clientCatalogue → Host.Outcome.next (s.clientRequest p q tag params crc)
        = (.next t : Host.Outcome State Fault Refusal) → Events s t := fun p tag params crc hq e =>
    Host.Outcome.next.inj e ▸ s.clientRequest_events p tag params crc hq
  have supervisor : ∀ {q : SupervisorRequest} (tag : Byte) (params : List Byte) (crc : Byte),
      q ∈ supervisorCatalogue → Host.Outcome.next (s.supervisorRequest q tag params crc)
        = (.next t : Host.Outcome State Fault Refusal) → Events s t := fun tag params crc hq e =>
    Host.Outcome.next.inj e ▸ s.supervisorRequest_events tag params crc hq
  have inClient : ∀ {q : ClientRequest} (k : Nat), clientCatalogue[k]? = some q →
      q ∈ clientCatalogue := fun _ => List.mem_of_getElem?
  have inSupervisor : ∀ {q : SupervisorRequest} (k : Nat), supervisorCatalogue[k]? = some q →
      q ∈ supervisorCatalogue := fun _ => List.mem_of_getElem?
  cases i with
  | status p tag params crc => exact client p tag params crc (inClient 0 rfl) h
  | openSession p tag params crc => exact client p tag params crc (inClient 1 rfl) h
  | closeSession p tag params crc => exact client p tag params crc (inClient 2 rfl) h
  | keepalive p tag params crc => exact client p tag params crc (inClient 3 rfl) h
  | claim p tag params crc => exact client p tag params crc (inClient 4 rfl) h
  | renew p tag params crc => exact client p tag params crc (inClient 5 rfl) h
  | release p tag params crc => exact client p tag params crc (inClient 6 rfl) h
  | downgrade p tag params crc => exact client p tag params crc (inClient 7 rfl) h
  | upgrade p tag params crc => exact client p tag params crc (inClient 8 rfl) h
  | withdraw p tag params crc => exact client p tag params crc (inClient 9 rfl) h
  | query p tag params crc => exact client p tag params crc (inClient 10 rfl) h
  | fetch p tag params crc => exact client p tag params crc (inClient 11 rfl) h
  | setAttention p tag params crc => exact client p tag params crc (inClient 12 rfl) h
  | clientUnknownRequest p code tag params crc =>
    change execClientUnknownRequest p code tag params crc s = _ at h
    unfold execClientUnknownRequest at h
    split at h
    · obtain rfl := Host.Outcome.next.inj h
      exact ((s.beginTransaction_sameCore p).trans (State.refuseFrame_sameCore _ p _ _)).events
    · obtain rfl := Host.Outcome.next.inj h
      exact (s.beginTransaction_sameCore p).events.trans
        (State.takeFrame_events _ p _ (clientRequestOf_catalogue _))
  | clientBadLength p code tag len =>
    obtain rfl := Host.Outcome.next.inj h
    exact (s.beginTransaction_sameCore p).events.trans (State.bytesArrive_events _ p _)
  | cutTransaction p arrived =>
    obtain rfl := Host.Outcome.next.inj h
    exact ((s.csFall_sameCore p).events.trans (State.bytesArrive_events _ p _)).trans
      (State.csRise_sameCore _ p).events
  | define tag params crc => exact supervisor tag params crc (inSupervisor 0 rfl) h
  | amend tag params crc => exact supervisor tag params crc (inSupervisor 1 rfl) h
  | retire tag params crc => exact supervisor tag params crc (inSupervisor 2 rfl) h
  | inspectResource tag params crc => exact supervisor tag params crc (inSupervisor 3 rfl) h
  | inspectQueue tag params crc => exact supervisor tag params crc (inSupervisor 4 rfl) h
  | revoke tag params crc => exact supervisor tag params crc (inSupervisor 5 rfl) h
  | bindGate tag params crc => exact supervisor tag params crc (inSupervisor 6 rfl) h
  | unbindGate tag params crc => exact supervisor tag params crc (inSupervisor 7 rfl) h
  | readGates tag params crc => exact supervisor tag params crc (inSupervisor 8 rfl) h
  | setPolicy tag params crc => exact supervisor tag params crc (inSupervisor 9 rfl) h
  | evict tag params crc => exact supervisor tag params crc (inSupervisor 10 rfl) h
  | inspectClient tag params crc => exact supervisor tag params crc (inSupervisor 11 rfl) h
  | setTimebase tag params crc => exact supervisor tag params crc (inSupervisor 12 rfl) h
  | listDeadlines tag params crc => exact supervisor tag params crc (inSupervisor 13 rfl) h
  | readEvents tag params crc => exact supervisor tag params crc (inSupervisor 14 rfl) h
  | ackEvents tag params crc => exact supervisor tag params crc (inSupervisor 15 rfl) h
  | setEventMask tag params crc => exact supervisor tag params crc (inSupervisor 16 rfl) h
  | clearAll tag params crc => exact supervisor tag params crc (inSupervisor 17 rfl) h
  | supervisorUnknownRequest code tag params crc =>
    change execSupervisorUnknownRequest code tag params crc s = _ at h
    unfold execSupervisorUnknownRequest at h
    split at h
    · obtain rfl := Host.Outcome.next.inj h
      exact (s.beginWrite_sameCore.trans
        (State.storeDecision_sameCore (s.beginWrite.answer _) _)).events
    · obtain rfl := Host.Outcome.next.inj h
      exact s.beginWrite_sameCore.events.trans
        (State.takeSupervisorFrame_events _ _ (supervisorRequestOf_catalogue _))
  | supervisorBadLength code tag len =>
    obtain rfl := Host.Outcome.next.inj h
    exact s.beginWrite_sameCore.events.trans (State.dataArrive_events _ _)
  | incomplete arrived ending =>
    obtain rfl := Host.Outcome.next.inj h
    exact (s.beginWrite_sameCore.events.trans (State.dataArrive_events _ _)).trans
      ((State.endWrite_sameCore _).trans (State.setSupervisorFraming_sameCore _ _)).events
  | tickEvent src => exact Host.Outcome.next.inj h ▸ s.tickFrom_events src
  | holdDeadlineExpiry r c => exact Host.Outcome.next.inj h ▸ s.expire_events _
  | waitDeadlineExpiry i => exact Host.Outcome.next.inj h ▸ s.expire_events _
  | lapse c => exact Host.Outcome.next.inj h ▸ s.expire_events _
  | graceExpiry r => exact Host.Outcome.next.inj h ▸ s.expire_events _
  | guardExpiry r => exact Host.Outcome.next.inj h ▸ s.expire_events _
  | deviceReset straps csLow =>
    obtain rfl := Host.Outcome.next.inj h
    refine Event.events (Event.deviceReset ?_)
    exact ⟨rfl, rfl, rfl, rfl, rfl, rfl, rfl, rfl⟩

/-- Every step is a run of events. -/
theorem step_events {s t : State} (h : step s = .next t) : Events s t := by
  unfold step at h
  split at h
  · rename_i c rest _
    exact (s.setPending_sameCore rest).events.trans (exec_events h)
  · split at h
    · rename_i e rest _
      obtain rfl := Host.Outcome.next.inj h
      exact (s.setBus_sameCore rest).events.trans (State.busEvent_events _ e)
    · obtain rfl := Host.Outcome.next.inj h
      exact s.referencePeriod_events

/-- What every event keeps, every step keeps. -/
theorem step_keeps {P : State → Prop} (events : ∀ s t, Event s t → P s → P t) {s t : State}
    (h : step s = .next t) (hs : P s) : P t := (step_events h).keep events hs

end Sys2Proof.Machine
end

section
/-! PROOF. What each operation does to the records, the wait entries and the queues: one law per
operation, which the invariants then cite. -/

namespace Sys2Proof.Machine

/-! Operations that touch neither records nor waits -/

/-- The records, the token counter, the wait entries and the queues are the same. -/
structure SameLeases (s t : State) : Prop where
  records : t.records = s.records
  nextToken : t.nextToken = s.nextToken
  entries : t.entries = s.entries
  queues : t.queues = s.queues

theorem SameLeases.refl (s : State) : SameLeases s s := ⟨rfl, rfl, rfl, rfl⟩

theorem SameLeases.trans {s t u : State} (h : SameLeases s t) (k : SameLeases t u) :
    SameLeases s u :=
  ⟨k.records.trans h.records, k.nextToken.trans h.nextToken, k.entries.trans h.entries,
    k.queues.trans h.queues⟩

theorem SameLeases.foldl {α : Type} {f : State → α → State} (h : ∀ t a, SameLeases t (f t a))
    (l : List α) (s : State) : SameLeases s (l.foldl f s) := by
  induction l generalizing s with
  | nil => exact .refl s
  | cons a rest ih => exact (h s a).trans (ih (f s a))

theorem SameCore.leases {s t : State} (h : SameCore s t) : SameLeases s t :=
  ⟨h.records, h.nextToken, h.entries, h.queues⟩

section
variable {s t : State}

theorem SameLeases.record (h : SameLeases s t) (r : Res) : t.record r = s.record r := by
  unfold State.record; rw [h.records]

theorem SameLeases.entry (h : SameLeases s t) (i : PoolIx) : t.entry i = s.entry i := by
  unfold State.entry; rw [h.entries]

theorem SameLeases.queue (h : SameLeases s t) (r : Res) : t.queue r = s.queue r := by
  unfold State.queue; rw [h.queues]

theorem SameLeases.holds (h : SameLeases s t) (r : Res) (c : Client) :
    t.holds r c = s.holds r c := by unfold State.holds; rw [h.record]

theorem SameLeases.exhausted (h : SameLeases s t) : t.exhausted = s.exhausted := by
  unfold State.exhausted; rw [h.nextToken]

end

section
variable (s : State)

theorem State.setClock_sameLeases (t : Clock) : SameLeases s (s.setClock t) := ⟨rfl, rfl, rfl, rfl⟩

theorem State.setDeadlines_sameLeases (l : List Deadline) : SameLeases s (s.setDeadlines l) :=
  ⟨rfl, rfl, rfl, rfl⟩

theorem State.setSession_sameLeases (c : Client) (x : Session) : SameLeases s (s.setSession c x) :=
  ⟨rfl, rfl, rfl, rfl⟩

theorem State.setNoticeQueue_sameLeases (c : Client) (x : NoticeQueue) :
    SameLeases s (s.setNoticeQueue c x) := ⟨rfl, rfl, rfl, rfl⟩

theorem State.report_sameLeases (r : Res) (c : Client) : SameLeases s (s.report r c) :=
  s.setSession_sameLeases c _

theorem State.notify_sameLeases (c : Client) (r : Res) (w : ResourceWord) :
    SameLeases s (s.notify c r w) := s.setNoticeQueue_sameLeases c _

theorem State.disarm_sameLeases (id : DeadlineId) : SameLeases s (s.disarm id) :=
  s.setDeadlines_sameLeases _

theorem State.arm_sameLeases (id : DeadlineId) (n : Ticks) : SameLeases s (s.arm id n) := by
  unfold State.arm
  split
  · exact s.disarm_sameLeases id
  · exact s.setDeadlines_sameLeases _

theorem State.armWait_sameLeases (i : PoolIx) (wait : Ticks) : SameLeases s (s.armWait i wait) := by
  unfold State.armWait
  split
  · exact .refl s
  · exact s.arm_sameLeases _ _

theorem State.keepSession_sameLeases (c : Client) : SameLeases s (s.keepSession c) := by
  unfold State.keepSession
  split
  · exact s.arm_sameLeases _ _
  · exact .refl s

theorem State.openNow_sameLeases (c : Client) (ttl : Ticks) : SameLeases s (s.openNow c ttl) := by
  unfold State.openNow
  dsimp only
  split
  · exact ((s.setSession_sameLeases c _).trans (State.arm_sameLeases _ _ _)).trans
      (State.setNoticeQueue_sameLeases _ c _)
  · exact (s.setSession_sameLeases c _).trans (State.setNoticeQueue_sameLeases _ c _)

theorem State.endSession_sameLeases (c : Client) (ended : PortState) :
    SameLeases s (s.endSession c ended) := s.setSession_sameLeases c _

theorem State.placeSessionNotice_sameLeases (c : Client) (n : Notice) :
    SameLeases s (s.placeSessionNotice c n) := s.setNoticeQueue_sameLeases c _

theorem State.raise_sameLeases (e : EventSource) : SameLeases s (s.raise e) :=
  (s.raise_sameCore e).leases

theorem State.reportRemoved_sameLeases (c : Client) (n : Notice) :
    SameLeases s (s.reportRemoved c n) := by
  cases n with
  | resource r w k => exact s.report_sameLeases r c
  | sessionLapsed k => exact .refl s
  | sessionEvicted k => exact .refl s

theorem State.discardNotices_sameLeases (c : Client) : SameLeases s (s.discardNotices c) :=
  (s.setNoticeQueue_sameLeases c _).trans
    (SameLeases.foldl (fun t n => t.reportRemoved_sameLeases c n) _ _)

theorem State.warnHolder_sameLeases (r : Res) (c : Client) :
    SameLeases s (State.warnHolder r s c) := by
  unfold State.warnHolder
  split
  · exact s.notify_sameLeases _ _ _
  · exact .refl s

end

/-! Removing and adding wait entries -/

section
variable (s : State)

@[simp] theorem State.record_removeEntry (i : PoolIx) (k : Res) :
    (s.removeEntry i).record k = s.record k := by
  unfold State.removeEntry
  split <;> rfl

@[simp] theorem State.nextToken_removeEntry (i : PoolIx) :
    (s.removeEntry i).nextToken = s.nextToken := by
  unfold State.removeEntry
  split <;> rfl

theorem State.entry_removeEntry (i j : PoolIx) :
    (s.removeEntry i).entry j = if j = i then none else s.entry j := by
  unfold State.removeEntry
  cases h : s.entry i with
  | none =>
    dsimp only
    split
    · rename_i hj; rw [hj, h]
    · rfl
  | some e => exact s.entry_setEntry i none j

variable {s} in
/-- Removing an entry that is in use takes it out of its resource's queue. -/
theorem State.queue_removeEntry {i : PoolIx} {e : WaitEntry} (h : s.entry i = some e) (k : Res) :
    (s.removeEntry i).queue k
      = if k = e.resource then (s.queue e.resource).erase i else s.queue k := by
  unfold State.removeEntry
  rw [h]
  exact s.queue_setQueue _ _ k

@[simp] theorem State.record_allocate (i : PoolIx) (e : WaitEntry) (q : List PoolIx) (wait : Ticks)
    (k : Res) : (s.allocate i e q wait).record k = s.record k :=
  (((State.armWait_sameLeases _ i wait).trans (State.report_sameLeases _ _ _)).record k).trans rfl

@[simp] theorem State.nextToken_allocate (i : PoolIx) (e : WaitEntry) (q : List PoolIx)
    (wait : Ticks) : (s.allocate i e q wait).nextToken = s.nextToken :=
  ((State.armWait_sameLeases _ i wait).trans (State.report_sameLeases _ _ _)).nextToken.trans rfl

theorem State.entry_allocate (i : PoolIx) (e : WaitEntry) (q : List PoolIx) (wait : Ticks)
    (j : PoolIx) :
    (s.allocate i e q wait).entry j = if j = i then some e else s.entry j :=
  (((State.armWait_sameLeases _ i wait).trans (State.report_sameLeases _ _ _)).entry j).trans
    (s.entry_setEntry i (some e) j)

theorem State.queue_allocate (i : PoolIx) (e : WaitEntry) (q : List PoolIx) (wait : Ticks)
    (k : Res) :
    (s.allocate i e q wait).queue k = if k = e.resource then q else s.queue k :=
  (((State.armWait_sameLeases _ i wait).trans (State.report_sameLeases _ _ _)).queue k).trans
    (State.queue_setQueue _ _ _ k)

/-- A cancelled entry is removed, and a notice says so. -/
theorem State.cancelEntry_eq (i : PoolIx) :
    ∃ t, SameLeases s t ∧ s.cancelEntry i = t.removeEntry i := by
  unfold State.cancelEntry
  split
  · exact ⟨_, s.notify_sameLeases _ _ _, rfl⟩
  · rename_i h
    refine ⟨s, .refl s, ?_⟩
    unfold State.removeEntry
    rw [h]

@[simp] theorem State.record_cancelEntry (i : PoolIx) (k : Res) :
    (s.cancelEntry i).record k = s.record k := by
  obtain ⟨t, ht, e⟩ := s.cancelEntry_eq i
  rw [e, State.record_removeEntry, ht.record]

@[simp] theorem State.nextToken_cancelEntry (i : PoolIx) :
    (s.cancelEntry i).nextToken = s.nextToken := by
  obtain ⟨t, ht, e⟩ := s.cancelEntry_eq i
  rw [e, State.nextToken_removeEntry, ht.nextToken]

@[simp] theorem State.record_cancelQueue (r k : Res) :
    (s.cancelQueue r).record k = s.record k := by
  unfold State.cancelQueue
  exact List.foldlRecOn (motive := fun t : State => t.record k = s.record k) _ _ rfl
    fun t h i _ => (t.record_cancelEntry i k).trans h

@[simp] theorem State.nextToken_cancelQueue (r : Res) :
    (s.cancelQueue r).nextToken = s.nextToken := by
  unfold State.cancelQueue
  exact List.foldlRecOn (motive := fun t : State => t.nextToken = s.nextToken) _ _ rfl
    fun t h i _ => (t.nextToken_cancelEntry i).trans h

@[simp] theorem State.record_cancelUpgrade (r k : Res) :
    (s.cancelUpgrade r).record k = s.record k := by
  unfold State.cancelUpgrade
  split
  · exact s.record_cancelEntry _ k
  · rfl

@[simp] theorem State.nextToken_cancelUpgrade (r : Res) :
    (s.cancelUpgrade r).nextToken = s.nextToken := by
  unfold State.cancelUpgrade
  split
  · exact s.nextToken_cancelEntry _
  · rfl

@[simp] theorem State.record_removeUpgrade (r : Res) (c : Client) (k : Res) :
    (s.removeUpgrade r c).record k = s.record k := by
  unfold State.removeUpgrade
  split
  · exact s.record_removeEntry _ k
  · rfl

@[simp] theorem State.nextToken_removeUpgrade (r : Res) (c : Client) :
    (s.removeUpgrade r c).nextToken = s.nextToken := by
  unfold State.removeUpgrade
  split
  · exact s.nextToken_removeEntry _
  · rfl

end

/-! Grants -/

/-- The record with the client's slot filled by a grant in the mode. -/
def Record.granted (x : Record) (c : Client) (l : Lease) (m : Mode) : Record :=
  { x.setLease c (some l) with state := .held, heldMode := some m }

section
variable (s : State)

theorem State.takeToken_records : s.takeToken.records = s.records := by
  unfold State.takeToken
  dsimp only
  split <;> rfl

theorem State.takeToken_queues : s.takeToken.queues = s.queues := by
  unfold State.takeToken
  dsimp only
  split <;> rfl

theorem State.record_grant (r : Res) (c : Client) (m : Mode) (hold : Ticks) (k : Res) :
    (s.grant r c m hold).record k
      = if k = r then (s.record r).granted c s.newLease m else s.record k := by
  unfold State.grant
  dsimp only
  rw [(State.report_sameLeases _ r c).record, (State.arm_sameLeases _ _ _).record]
  unfold State.record
  rw [State.takeToken_records]
  exact s.record_setRecord r _ k

theorem State.queue_grant (r : Res) (c : Client) (m : Mode) (hold : Ticks) (k : Res) :
    (s.grant r c m hold).queue k = s.queue k := by
  unfold State.grant
  dsimp only
  rw [(State.report_sameLeases _ r c).queue, (State.arm_sameLeases _ _ _).queue]
  unfold State.queue
  rw [State.takeToken_queues]
  rfl

/-- A grant from the queue fills the slot of the entry's client. -/
theorem State.record_grantEntry (r : Res) (i : PoolIx) (e : WaitEntry) (k : Res) :
    (s.grantEntry r i e).record k
      = if k = r then (s.record r).granted e.client (s.removeEntry i).newLease e.kind.mode
        else s.record k := by
  unfold State.grantEntry
  rw [(State.notify_sameLeases _ _ _ _).record, State.record_grant, State.record_removeEntry,
    State.record_removeEntry]

theorem State.queue_grantEntry (r : Res) (i : PoolIx) (e : WaitEntry) (k : Res) :
    (s.grantEntry r i e).queue k = (s.removeEntry i).queue k := by
  unfold State.grantEntry
  rw [(State.notify_sameLeases _ _ _ _).queue, State.queue_grant]

variable {s}

theorem State.grantHeads_nil (r : Res) : s.grantHeads r [] = s := rfl

/-- The grant rule's run at a head that it grants. -/
theorem State.grantHeads_cons_granted {r : Res} {i : PoolIx} {e : WaitEntry} {rest : List PoolIx}
    (he : s.entry i = some e) (hx : s.exhausted = false)
    (hc : (s.record r).compatible e = true) :
    s.grantHeads r (i :: rest) = (s.grantEntry r i e).grantHeads r rest := by
  rw [State.grantHeads, he]
  simp [hx, hc]

/-- The grant rule's run stops at a head that it does not grant. -/
theorem State.grantHeads_cons_stopped {r : Res} {i : PoolIx} {rest : List PoolIx}
    (h : ∀ e ∈ s.entry i, s.exhausted = true ∨ (s.record r).compatible e = false) :
    s.grantHeads r (i :: rest) = s := by
  rw [State.grantHeads]
  cases he : s.entry i with
  | none => rfl
  | some e =>
    rcases h e he with hx | hc
    · simp [hx]
    · simp [hc]

/-- An induction over the grants of one run of the grant rule: what each grant keeps, the run
keeps. -/
theorem State.grantHeads_keeps {P : State → Prop} {r : Res}
    (grant : ∀ (t : State) (i : PoolIx) (e : WaitEntry), t.entry i = some e → t.exhausted = false →
      (t.record r).compatible e = true → P t → P (t.grantEntry r i e))
    (q : List PoolIx) (h : P s) : P (s.grantHeads r q) := by
  induction q generalizing s with
  | nil => exact h
  | cons i rest ih =>
    by_cases stops : ∀ e ∈ s.entry i, s.exhausted = true ∨ (s.record r).compatible e = false
    · rw [State.grantHeads_cons_stopped stops]
      exact h
    · push Not at stops
      obtain ⟨e, he, hx, hc⟩ := stops
      have hx : s.exhausted = false := Bool.eq_false_of_not_eq_true hx
      have hc : (s.record r).compatible e = true := Bool.eq_true_of_not_eq_false hc
      rw [State.grantHeads_cons_granted he hx hc]
      exact ih (grant s i e he hx hc h)

/-- Nothing is granted once the token counter is exhausted. -/
theorem State.grantHeads_of_exhausted {r : Res} (q : List PoolIx) (h : s.exhausted = true) :
    s.grantHeads r q = s := by
  cases q with
  | nil => rfl
  | cons i rest => exact State.grantHeads_cons_stopped fun _ _ => .inl h

theorem State.grantRule_of_exhausted {r : Res} (h : s.exhausted = true) : s.grantRule r = s := by
  unfold State.grantRule
  rw [State.grantHeads_of_exhausted _ h, ite_self]

theorem State.grantRule_of_not_grants {r : Res} (h : (s.record r).state.grants = false) :
    s.grantRule r = s := by
  simp [State.grantRule, h]

theorem State.grantRule_of_grants {r : Res} (h : (s.record r).state.grants = true) :
    s.grantRule r = s.grantHeads r (s.queue r) := by
  simp [State.grantRule, h]

theorem RecordState.grants_iff {x : RecordState} : x.grants = true ↔ x = .idle ∨ x = .held := by
  cases x <;> decide

end

/-! The release path -/

/-- The client's slot emptied: the first half of the release path (R33). -/
def State.vacate (s : State) (r : Res) (c : Client) : State :=
  ((s.setRecord r ((s.record r).setLease c none)).disarm (.hold r c)).report r c

section
variable (s : State)

theorem State.vacate_sameLeases (r : Res) (c : Client) :
    SameLeases (s.setRecord r ((s.record r).setLease c none)) (s.vacate r c) :=
  (State.disarm_sameLeases _ _).trans (State.report_sameLeases _ r c)

theorem State.record_vacate (r : Res) (c : Client) (k : Res) :
    (s.vacate r c).record k = if k = r then (s.record r).setLease c none else s.record k :=
  ((s.vacate_sameLeases r c).record k).trans (s.record_setRecord r _ k)

@[simp] theorem State.record_vacate_self (r : Res) (c : Client) :
    (s.vacate r c).record r = (s.record r).setLease c none := by
  rw [State.record_vacate, if_pos rfl]

@[simp] theorem State.queue_vacate (r : Res) (c : Client) (k : Res) :
    (s.vacate r c).queue k = s.queue k := (s.vacate_sameLeases r c).queue k

@[simp] theorem State.entry_vacate (r : Res) (c : Client) (i : PoolIx) :
    (s.vacate r c).entry i = s.entry i := (s.vacate_sameLeases r c).entry i

variable {s}

/-- The release path of the last lease goes on to what R34 says. -/
theorem State.endLease_of_last {r : Res} {c : Client} (quiet : Bool)
    (h : ((s.record r).setLease c none).holders = []) :
    s.endLease r c quiet = (s.vacate r c).lastHolderLeft r := by
  have he : ((s.vacate r c).record r).holders.isEmpty = true := by
    rw [State.record_vacate_self, h]
    rfl
  exact if_pos he

/-- With holders left, the release path runs the grant rule unless a REVOKE is removing them. -/
theorem State.endLease_of_more {r : Res} {c : Client} (quiet : Bool)
    (h : ((s.record r).setLease c none).holders ≠ []) :
    s.endLease r c quiet
      = if (s.record r).state = .held ∧ quiet = false then (s.vacate r c).grantRule r
        else s.vacate r c := by
  have he : ¬((s.vacate r c).record r).holders.isEmpty = true := by
    rw [State.record_vacate_self, List.isEmpty_iff]
    exact h
  have hs : ((s.vacate r c).record r).state = (s.record r).state := by
    rw [State.record_vacate_self, Record.setLease_state]
  exact (if_neg he).trans (by rw [← hs]; rfl)

end

/-! Holders -/

theorem Record.mem_holders_setLease {x : Record} {c k : Client} {l : Option Lease} :
    k ∈ (x.setLease c l).holders ↔ if k = c then l.isSome = true else k ∈ x.holders := by
  rw [mem_holders, Record.lease_setLease]
  split
  · rfl
  · rw [mem_holders]

theorem Record.holders_sublist (x : Record) : x.holders.Sublist allClients := List.filter_sublist

theorem Record.holders_nodup (x : Record) : x.holders.Nodup :=
  (x.holders_sublist).nodup (List.nodup_finRange 4)

theorem Record.holders_setLease_none (x : Record) (c : Client) :
    (x.setLease c none).holders = x.holders.erase c := by
  rw [x.holders_nodup.erase_eq_filter]
  unfold Record.holders
  rw [List.filter_filter]
  refine List.filter_congr fun k _ => ?_
  rw [Record.lease_setLease]
  by_cases hk : k = c <;> simp [hk]

theorem Record.holders_congr {x y : Record} (h : y.slots = x.slots) : y.holders = x.holders := by
  unfold Record.holders Record.lease
  rw [h]

theorem Record.holders_granted (x : Record) (c : Client) (l : Lease) (m : Mode) :
    (x.granted c l m).holders = (x.setLease c (some l)).holders := Record.holders_congr rfl

theorem Record.mem_holders_granted {x : Record} {c k : Client} {l : Lease} {m : Mode} :
    k ∈ (x.granted c l m).holders ↔ k = c ∨ k ∈ x.holders := by
  rw [Record.holders_granted, Record.mem_holders_setLease]
  split <;> simp_all

/-- A grant to the only client that may hold the record makes it the sole holder. -/
theorem Record.holders_granted_sole {x : Record} {c : Client} (l : Lease) (m : Mode)
    (h : ∀ k ∈ x.holders, k = c) : (x.granted c l m).holders = [c] := by
  have perm : (x.granted c l m).holders.Perm [c] := by
    rw [List.perm_ext_iff_of_nodup (Record.holders_nodup _) (List.nodup_singleton c)]
    intro k
    rw [Record.mem_holders_granted, List.mem_singleton]
    exact ⟨fun hk => hk.elim id (h k), .inl⟩
  exact List.perm_singleton.mp perm

/-- A compatible head that is granted EXCLUSIVE finds no other holder (R25). -/
theorem Record.compatible_exclusive {x : Record} {e : WaitEntry} (h : x.compatible e = true)
    (hm : e.kind.mode = .exclusive) : ∀ k ∈ x.holders, k = e.client := by
  unfold Record.compatible at h
  intro k hk
  cases hkind : e.kind with
  | shared => rw [hkind] at hm; cases hm
  | exclusive =>
    rw [hkind] at h
    rw [List.isEmpty_iff.mp h] at hk
    cases hk
  | upgrade =>
    rw [hkind] at h
    rw [eq_of_beq h] at hk
    exact List.mem_singleton.mp hk

end Sys2Proof.Machine
end

section
/-! PROOF. Every record's content agrees with its state (R2, R3, R4), kept by every step. -/

namespace Sys2Proof.Machine

/-! What agreement says, state by state -/

section
variable {x : Record}

theorem Record.wf_of_idle (hs : x.state = .idle) (hh : x.holders = [])
    (hm : x.heldMode = none) (hd : x.deadline = .absent) (hr : x.retirePending = false) :
    x.Wf := by
  simp [Record.Wf, hs, hh, hm, hd, hr]

theorem Record.wf_of_held (hs : x.state = .held) (hh : x.holders ≠ [])
    (hm : x.heldMode.isSome = true) (hd : x.deadline = .absent)
    (he : x.heldMode = some .exclusive → x.holders.length = 1) : x.Wf := by
  have hm' : x.heldMode ≠ none := Option.isSome_iff_ne_none.mp hm
  simp [Record.Wf, hs, hh, hm', hd]
  exact he

theorem Record.wf_of_draining (hs : x.state = .draining) (hh : x.holders = [])
    (hm : x.heldMode = none) (hd : x.deadline = .guard) : x.Wf := by
  simp [Record.Wf, hs, hh, hm, hd]

/-- Only REVOKING and DRAINING records carry a resource deadline. -/
theorem Record.Wf.deadline_absent (h : x.Wf) (hr : x.state ≠ .revoking)
    (hd : x.state ≠ .draining) : x.deadline = .absent := by
  obtain ⟨-, hgrace, hguard, -⟩ := h
  cases hx : x.deadline with
  | absent => rfl
  | grace => exact absurd (hgrace.mp hx) hr
  | guard => exact absurd (hguard.mp hx) hd

theorem Record.Wf.holders_nil (h : x.Wf) (hh : x.state ≠ .held) (hr : x.state ≠ .revoking) :
    x.holders = [] := by
  by_contra hne
  exact (h.1.mp hne).elim hh hr

theorem Record.Wf.heldMode_none_iff (h : x.Wf) : x.heldMode = none ↔ x.holders = [] := by
  obtain ⟨-, -, -, hmode, -⟩ := h
  exact hmode

theorem Record.Wf.heldMode_none (h : x.Wf) (hh : x.holders = []) : x.heldMode = none :=
  h.heldMode_none_iff.mpr hh

/-- An OFFLINE record is blank. -/
theorem Record.Wf.eq_cleared (h : x.Wf) (ho : x.state = .offline) : x = Record.cleared := by
  obtain ⟨-, -, -, -, -, hoffline, -⟩ := h
  exact hoffline ho

/-- A client in a slot: the record is HELD or REVOKING. -/
theorem Record.Wf.state_of_holder (h : x.Wf) {c : Client} (hc : c ∈ x.holders) :
    x.state = .held ∨ x.state = .revoking := h.1.mp (List.ne_nil_of_mem hc)

/-- New attributes touch nothing that agreement speaks of, once the record is defined. -/
theorem Record.Wf.setAttrs (h : x.Wf) (ho : x.state ≠ .offline) (a : Attributes) :
    Record.Wf { x with attrs := a } := by
  obtain ⟨hheld, hgrace, hguard, hmode, hexcl, -, hretire⟩ := h
  exact ⟨hheld, hgrace, hguard, hmode, hexcl, fun e => absurd e ho, hretire⟩

/-- Retire pending marks a record that is HELD, REVOKING or DRAINING. -/
theorem Record.Wf.setRetirePending (h : x.Wf) (ho : x.state ≠ .offline) (hi : x.state ≠ .idle) :
    Record.Wf { x with retirePending := true } := by
  obtain ⟨hheld, hgrace, hguard, hmode, hexcl, -, -⟩ := h
  refine ⟨hheld, hgrace, hguard, hmode, hexcl, fun e => absurd e ho, fun _ => ?_⟩
  show x.state = .held ∨ x.state = .revoking ∨ x.state = .draining
  cases hs : x.state with
  | offline => exact absurd hs ho
  | idle => exact absurd hs hi
  | held => exact .inl rfl
  | revoking => exact .inr (.inl rfl)
  | draining => exact .inr (.inr rfl)

/-- The mode of a HELD record may be lowered to SHARED (R37). -/
theorem Record.Wf.setShared (h : x.Wf) (hh : x.holders ≠ []) :
    Record.Wf { x with heldMode := some .shared } := by
  obtain ⟨hheld, hgrace, hguard, -, -, hoff, hretire⟩ := h
  have hstate : x.state = .held ∨ x.state = .revoking := hheld.mp hh
  refine ⟨hheld, hgrace, hguard, ⟨fun e => (by cases e), fun e => absurd e hh⟩,
    fun e => (by cases e), fun e => ?_, hretire⟩
  exact absurd e (by rcases hstate with e' | e' <;> simp [e'])

/-- A grant keeps agreement where the grant rule may grant and no other client is left beside an
EXCLUSIVE lease. -/
theorem Record.Wf.granted (h : x.Wf) (hs : x.state.grants = true) (c : Client) (l : Lease)
    {m : Mode} (hm : m = .exclusive → ∀ k ∈ x.holders, k = c) : (x.granted c l m).Wf := by
  have hstate := RecordState.grants_iff.mp hs
  have habsent : x.deadline = .absent := h.deadline_absent
    (by rcases hstate with e | e <;> simp [e]) (by rcases hstate with e | e <;> simp [e])
  refine Record.wf_of_held rfl ?_ rfl habsent fun e => ?_
  · exact List.ne_nil_of_mem (Record.mem_holders_granted.mpr (.inl rfl))
  · have hmode : m = .exclusive := Option.some.inj e
    rw [Record.holders_granted_sole l m (hm hmode)]
    rfl

/-- A slot emptied with holders left. -/
theorem Record.Wf.vacated (h : x.Wf) {c : Client} (hmore : (x.setLease c none).holders ≠ []) :
    (x.setLease c none).Wf := by
  have hsub : (x.setLease c none).holders.Sublist x.holders := by
    rw [Record.holders_setLease_none]
    exact List.erase_sublist
  have hholders : x.holders ≠ [] := fun e => hmore (List.sublist_nil.mp (e ▸ hsub))
  obtain ⟨hheld, hgrace, hguard, hmode, hexcl, -, hretire⟩ := h
  have hstate : x.state = .held ∨ x.state = .revoking := hheld.mp hholders
  refine ⟨⟨fun _ => hstate, fun _ => hmore⟩, hgrace, hguard,
    ⟨fun e => absurd (hmode.mp e) hholders, fun e => absurd e hmore⟩, fun e => ?_, fun e => ?_,
    hretire⟩
  · have hle := hsub.length_le
    have hpos := List.length_pos_iff.mpr hmore
    have hone : x.holders.length = 1 := hexcl e
    omega
  · have e' : x.state = .offline := e
    exact absurd e' (by rcases hstate with h' | h' <;> simp [h'])

/-- A HELD record enters REVOKING with its GRACE deadline (R87). -/
theorem Record.Wf.revoking (h : x.Wf) (hs : x.state = .held) :
    Record.Wf { x with state := .revoking, deadline := .grace } := by
  obtain ⟨hheld, -, -, hmode, hexcl, -, -⟩ := h
  exact ⟨⟨fun _ => .inr rfl, fun _ => hheld.mpr (.inl hs)⟩, ⟨fun _ => rfl, fun _ => rfl⟩,
    ⟨nofun, nofun⟩, hmode, hexcl, nofun, fun _ => .inr (.inl rfl)⟩

/-- CLEAR ALL leaves each record OFFLINE and cleared, or IDLE (R17). -/
theorem Record.atRest_wf (x : Record) : x.atRest.Wf := by
  unfold Record.atRest
  split
  · exact Record.cleared_wf
  · rename_i h
    have hr : x.retirePending = false := by
      cases hx : x.retirePending with
      | false => rfl
      | true => exact absurd (.inr hx) h
    refine Record.wf_of_idle rfl ?_ rfl rfl hr
    exact (Record.holders_congr rfl).trans Record.cleared_holders

theorem Record.defined_wf (a : Attributes) : (Record.defined a).Wf :=
  Record.wf_of_idle rfl ((Record.holders_congr rfl).trans Record.cleared_holders) rfl rfl rfl

end

/-! The operations -/

section
variable {s t : State}

theorem SameLeases.recordsWf (e : SameLeases s t) (h : s.RecordsWf) : t.RecordsWf := fun r => by
  rw [e.record r]
  exact h r

theorem State.RecordsWf.congr (h : s.RecordsWf) (e : ∀ r, t.record r = s.record r) :
    t.RecordsWf := fun r => by
  rw [e r]
  exact h r

theorem State.RecordsWf.setRecord (h : s.RecordsWf) (r : Res) {x : Record} (hx : x.Wf) :
    (s.setRecord r x).RecordsWf := fun k => by
  rw [State.record_setRecord]
  split
  · exact hx
  · exact h k

theorem State.RecordsWf.grant (h : s.RecordsWf) {r : Res} (hs : (s.record r).state.grants = true)
    {c : Client} {m : Mode} (hold : Ticks)
    (hm : m = .exclusive → ∀ k ∈ (s.record r).holders, k = c) :
    (s.grant r c m hold).RecordsWf := fun k => by
  rw [State.record_grant]
  split
  · exact (h r).granted hs c _ hm
  · exact h k

/-- A grant from the queue leaves a record that the grant rule may grant from again. -/
theorem State.grants_grantEntry (s : State) (r : Res) (i : PoolIx) (e : WaitEntry) :
    ((s.grantEntry r i e).record r).state.grants = true := by
  rw [State.record_grantEntry, if_pos rfl]
  rfl

theorem State.RecordsWf.grantHeads (h : s.RecordsWf) {r : Res}
    (hs : (s.record r).state.grants = true) (q : List PoolIx) : (s.grantHeads r q).RecordsWf := by
  refine (State.grantHeads_keeps
    (P := fun t : State => t.RecordsWf ∧ (t.record r).state.grants = true)
    (fun t i e _ _ hc ⟨hw, hg⟩ => ⟨fun k => ?_, t.grants_grantEntry r i e⟩) q ⟨h, hs⟩).1
  rw [State.record_grantEntry]
  split
  · exact (hw r).granted hg _ _ fun hm => Record.compatible_exclusive hc hm
  · exact hw k

theorem State.RecordsWf.grantRule (h : s.RecordsWf) (r : Res) : (s.grantRule r).RecordsWf := by
  cases hg : (s.record r).state.grants with
  | true => rw [State.grantRule_of_grants hg]; exact h.grantHeads hg _
  | false => rw [State.grantRule_of_not_grants hg]; exact h

/-- What R34 writes agrees with its state, whatever the record said while its last holder left. -/
theorem State.lastHolderLeft_recordsWf {r : Res} (others : ∀ k, k ≠ r → (s.record k).Wf)
    (hh : (s.record r).holders = []) : (s.lastHolderLeft r).RecordsWf := by
  have write : ∀ (u : State) (x : Record), (∀ k, u.record k = s.record k) → x.Wf →
      (u.setRecord r x).RecordsWf := by
    intro u x hu hx k
    rw [State.record_setRecord]
    split
    · exact hx
    · rename_i hk
      rw [hu k]
      exact others k hk
  have same : ∀ k, (if (s.record r).state = .revoking then s.disarm (.grace r) else s).record k
      = s.record k := by
    intro k
    split <;> rfl
  unfold State.lastHolderLeft
  dsimp only
  split
  · exact (State.arm_sameLeases _ _ _).recordsWf
      (write _ _ same (Record.wf_of_draining rfl hh rfl rfl))
  · split
    · exact write _ _ same Record.cleared_wf
    · rename_i hr
      have idle : Record.Wf
          { s.record r with state := .idle, heldMode := none, deadline := .absent } :=
        Record.wf_of_idle rfl hh rfl rfl (Bool.eq_false_of_not_eq_true hr)
      exact (write _ _ same idle).grantRule r

theorem State.RecordsWf.endLease (h : s.RecordsWf) (r : Res) (c : Client) (quiet : Bool) :
    (s.endLease r c quiet).RecordsWf := by
  by_cases hlast : ((s.record r).setLease c none).holders = []
  · rw [State.endLease_of_last quiet hlast]
    refine State.lastHolderLeft_recordsWf (fun k hk => ?_) ?_
    · rw [State.record_vacate, if_neg hk]
      exact h k
    · rw [State.record_vacate_self]
      exact hlast
  · have hv : (s.vacate r c).RecordsWf :=
      (s.vacate_sameLeases r c).recordsWf (h.setRecord r ((h r).vacated hlast))
    rw [State.endLease_of_more quiet hlast]
    split
    · exact hv.grantRule r
    · exact hv

theorem State.RecordsWf.removeEntry (h : s.RecordsWf) (i : PoolIx) :
    (s.removeEntry i).RecordsWf := h.congr (s.record_removeEntry i)

theorem State.RecordsWf.removeUpgrade (h : s.RecordsWf) (r : Res) (c : Client) :
    (s.removeUpgrade r c).RecordsWf := h.congr (s.record_removeUpgrade r c)

theorem State.RecordsWf.removeHolder (h : s.RecordsWf) (r : Res) (c : Client) :
    (State.removeHolder r s c).RecordsWf := by
  unfold State.removeHolder
  split
  · exact ((s.notify_sameLeases _ _ _).recordsWf h).endLease r c true
  · exact h

theorem State.RecordsWf.removeHolders (h : s.RecordsWf) (r : Res) :
    (s.removeHolders r).RecordsWf :=
  List.foldlRecOn (motive := State.RecordsWf) _ _ h fun _ ht c _ => ht.removeHolder r c

theorem State.RecordsWf.releaseResource (h : s.RecordsWf) (c : Client) (r : Res) :
    (State.releaseResource c s r).RecordsWf := by
  have hd : (s.dropWait c r).RecordsWf := by
    unfold State.dropWait
    split
    · exact (h.removeEntry _).grantRule r
    · exact h
  unfold State.releaseResource State.dropLease
  split
  · exact hd.endLease r c false
  · exact hd

theorem State.RecordsWf.massRelease (h : s.RecordsWf) (c : Client) : (s.massRelease c).RecordsWf :=
  (State.discardNotices_sameLeases _ c).recordsWf
    (List.foldlRecOn (motive := State.RecordsWf) _ _ h fun _ ht r _ => ht.releaseResource c r)

theorem State.RecordsWf.closeNow (h : s.RecordsWf) (c : Client) : (s.closeNow c).RecordsWf :=
  (State.endSession_sameLeases _ c _).recordsWf
    (((s.disarm_sameLeases _).recordsWf h).massRelease c)

theorem State.RecordsWf.evictNow (h : s.RecordsWf) (c : Client) : (s.evictNow c).RecordsWf :=
  ((State.placeSessionNotice_sameLeases _ c _).trans (State.endSession_sameLeases _ c _)).recordsWf
    (((s.disarm_sameLeases _).recordsWf h).massRelease c)

theorem State.RecordsWf.lapseNow (h : s.RecordsWf) (c : Client) : (s.lapseNow c).RecordsWf :=
  (((State.placeSessionNotice_sameLeases _ c _).trans (State.endSession_sameLeases _ c _)).trans
    (State.raise_sameLeases _ _)).recordsWf (h.massRelease c)

/-! The deliveries -/

theorem State.RecordsWf.holdExpired (h : s.RecordsWf) (r : Res) (c : Client) :
    (s.holdExpired r c).RecordsWf := by
  unfold State.holdExpired
  split
  · exact (((s.notify_sameLeases _ _ _).recordsWf h).removeUpgrade r c).endLease r c false
  · exact h

theorem State.RecordsWf.waitExpired (h : s.RecordsWf) (i : PoolIx) :
    (s.waitExpired i).RecordsWf := by
  unfold State.waitExpired
  split
  · exact (((s.notify_sameLeases _ _ _).recordsWf h).removeEntry i).grantRule _
  · exact h

theorem State.RecordsWf.graceExpired (h : s.RecordsWf) (r : Res) :
    (s.graceExpired r).RecordsWf := by
  unfold State.graceExpired
  split
  · exact (State.raise_sameLeases _ _).recordsWf (h.removeHolders r)
  · exact h

theorem State.RecordsWf.guardExpired (h : s.RecordsWf) (r : Res) :
    (s.guardExpired r).RecordsWf := by
  unfold State.guardExpired
  dsimp only
  split
  · rename_i hd
    split
    · exact h.setRecord r Record.cleared_wf
    · rename_i hr
      have hs : (s.record r).state = .draining := (h r).2.2.1.mp hd
      have hh : (s.record r).holders = [] :=
        (h r).holders_nil (by simp [hs]) (by simp [hs])
      have idle : Record.Wf { s.record r with state := .idle, deadline := .absent } :=
        Record.wf_of_idle rfl hh ((h r).heldMode_none hh) rfl (Bool.eq_false_of_not_eq_true hr)
      exact (h.setRecord r idle).grantRule r
  · exact h

theorem State.RecordsWf.deliver (h : s.RecordsWf) (id : DeadlineId) : (s.deliver id).RecordsWf := by
  cases id with
  | hold r c => exact h.holdExpired r c
  | wait i => exact h.waitExpired i
  | session c =>
    show (s.sessionExpired c).RecordsWf
    unfold State.sessionExpired
    split
    · exact h.lapseNow c
    · exact h
  | grace r => exact h.graceExpired r
  | guard r => exact h.guardExpired r

/-! The checks of the requests, as facts about the record -/

/-- A claim that is grantable now finds an IDLE record, or a HELD one that it shares (R30). -/
theorem State.grantableNow_iff {r : Res} {m : Mode} :
    s.grantableNow r m = true
      ↔ (s.record r).state = .idle
        ∨ ((s.record r).state = .held ∧ (s.record r).heldMode = some .shared ∧ m = .shared
          ∧ s.queue r = []) := by
  simp [State.grantableNow, and_assoc]

/-- An upgrade that passes its checks finds a HELD record (TABLE 3-3). -/
theorem State.upgradeChecks_held (h : s.RecordsWf) {c : Client} {r : Res}
    (hc : firstFailing (s.upgradeChecks c r) = none) :
    (s.record r).state = .held ∧ (s.record r).heldMode = some .shared
      ∧ (s.record r).retirePending = false ∧ s.exhausted = false := by
  obtain ⟨hholds, hmode, -, hretire, hstate, -, -, hx⟩ : s.holds r c = true
      ∧ (s.record r).heldMode ≠ some .exclusive ∧ (s.record r).attrs.modes ≠ .sharedOnly
      ∧ (s.record r).retirePending = false ∧ (s.record r).state ≠ .revoking
      ∧ s.upgradeWaits r c true = false ∧ s.upgradeWaits r c false = false
      ∧ s.exhausted = false := by
    simpa [firstFailing_eq_none, State.upgradeChecks] using hc
  have hmem : c ∈ (s.record r).holders := mem_holders.mpr hholds
  refine ⟨((h r).state_of_holder hmem).resolve_right hstate, ?_, hretire, hx⟩
  cases hm : (s.record r).heldMode with
  | none => exact absurd ((h r).heldMode_none_iff.mp hm) (List.ne_nil_of_mem hmem)
  | some m => cases m with
    | shared => rfl
    | exclusive => exact absurd hm hmode

/-- A downgrade that passes its checks finds a record with holders (R37). -/
theorem State.downgradeChecks_holds {c : Client} {r : Res}
    (hc : firstFailing (s.downgradeChecks c r) = none) : (s.record r).holders ≠ [] := by
  obtain ⟨hholds, -⟩ : s.holds r c = true ∧ (s.record r).heldMode = some .exclusive
      ∧ (s.record r).attrs.modes ≠ .exclusiveOnly ∧ (s.record r).state ≠ .revoking := by
    simpa [firstFailing_eq_none, State.downgradeChecks] using hc
  exact List.ne_nil_of_mem (mem_holders.mpr hholds)

/-! The events -/

/-- A record whose slot a claim fills now has no other holder beside an EXCLUSIVE lease. -/
theorem State.RecordsWf.claimed (h : s.RecordsWf) {c : Client} {r : Res} {m : Mode} (hold : Ticks)
    (hnow : s.grantableNow r m = true) : (s.grant r c m hold).RecordsWf := by
  rcases State.grantableNow_iff.mp hnow with hidle | ⟨hheld, -, rfl, -⟩
  · refine h.grant (by rw [hidle]; rfl) hold fun _ k hk => ?_
    rw [(h r).holders_nil (by simp [hidle]) (by simp [hidle])] at hk
    cases hk
  · exact h.grant (by rw [hheld]; rfl) hold nofun

theorem Event.keeps_recordsWf (s t : State) (e : Event s t) (h : s.RecordsWf) : t.RecordsWf := by
  cases e with
  | outside same => exact same.leases.recordsWf h
  | deviceReset same => exact same.leases.recordsWf State.reset_recordsWf
  | clearAll =>
    intro r
    show (Vec.get (s.records.map Record.atRest) r).Wf
    rw [Vec.get_map]
    exact Record.atRest_wf _
  | tick =>
    exact State.tick_keeps (P := State.RecordsWf) (fun u t => (u.setClock_sameLeases t).recordsWf)
      (fun u d rest _ hu => ((u.setDeadlines_sameLeases rest).recordsWf hu).deliver d.id) h
  | expiry id _ => exact ((s.disarm_sameLeases id).recordsWf h).deliver id
  | kept c => exact (s.keepSession_sameLeases c).recordsWf h
  | opened c ttl _ => exact (s.openNow_sameLeases c ttl).recordsWf h
  | closed c _ => exact h.closeNow c
  | evicted c _ => exact h.evictNow c
  | policySet c p => exact (s.setSession_sameLeases c _).recordsWf h
  | fetched c n rest _ =>
    exact ((s.setNoticeQueue_sameLeases c _).trans
      (State.reportRemoved_sameLeases _ c n)).recordsWf h
  | attentionSet c m _ => exact (s.setNoticeQueue_sameLeases c _).recordsWf h
  | claimed c r m hold _ _ now => exact h.claimed hold now
  | claimQueued c r m hold wait i _ _ _ _ _ =>
    exact (h.congr (s.record_allocate i _ _ wait)).grantRule r
  | upgraded c r hold _ checks sole =>
    obtain ⟨hheld, -⟩ := State.upgradeChecks_held h checks
    refine h.grant (by rw [hheld]; rfl) hold fun _ k hk => ?_
    rw [sole] at hk
    exact List.mem_singleton.mp hk
  | upgradeQueued c r hold wait i _ _ _ _ _ =>
    exact (h.congr (s.record_allocate i _ _ wait)).grantRule r
  | renewed c r hold _ _ _ => exact (s.arm_sameLeases _ _).recordsWf h
  | released c r _ _ => exact (h.removeUpgrade r c).endLease r c false
  | downgraded c r _ checks =>
    exact ((State.report_sameLeases _ r c).recordsWf
      (h.setRecord r ((h r).setShared (State.downgradeChecks_holds checks)))).grantRule r
  | withdrawn c r i _ _ => exact (h.removeEntry i).grantRule r
  | defined r a _ => exact h.setRecord r (Record.defined_wf a)
  | amended r a inUse _ _ => exact h.setRecord r ((h r).setAttrs inUse a)
  | revoked r held _ =>
    have hc : (s.cancelUpgrade r).RecordsWf := h.congr (s.record_cancelUpgrade r)
    have hw := (SameLeases.foldl (fun u c => u.warnHolder_sameLeases r c)
      ((s.cancelUpgrade r).record r).holders (s.cancelUpgrade r)).recordsWf hc
    refine (State.arm_sameLeases _ _ _).recordsWf (hw.setRecord r ((hw r).revoking ?_))
    rw [(SameLeases.foldl (fun u c => u.warnHolder_sameLeases r c) _ _).record,
      State.record_cancelUpgrade]
    exact held
  | revokedAtOnce r _ _ =>
    exact (State.raise_sameLeases _ _).recordsWf
      (State.RecordsWf.removeHolders (h.congr (s.record_cancelUpgrade r)) r)
  | retired r _ _ =>
    exact State.RecordsWf.setRecord (h.congr (s.record_cancelQueue r)) r Record.cleared_wf
  | retiring r defined busy _ =>
    exact State.RecordsWf.congr (h.setRecord r ((h r).setRetirePending defined busy))
      (State.record_cancelQueue _ r)

end

/-- Settles O53: every event keeps the agreement, so every step does. -/
theorem recordsAgreeWithTheirStates : Obligations.RecordsAgreeWithTheirStates := fun _ _ h hstep =>
  step_keeps Event.keeps_recordsWf hstep h

end Sys2Proof.Machine
end

section
/-! PROOF. Every queue stays as the grant rule leaves it (R4, R25). An operation on one resource may
leave that resource's queue unsettled for a while, and the grant rule, or a state that grants
nothing, settles it again before the event ends. -/

namespace Sys2Proof.Machine

/-! The wait pool -/

section
variable {s t : State}

theorem State.PoolWf.entry_of_mem (h : s.PoolWf) {r : Res} {i : PoolIx} (hi : i ∈ s.queue r) :
    ∃ e, s.entry i = some e ∧ e.resource = r := by
  have hw : s.waitsOn i = some r := (h.2 r i).mp hi
  exact Option.map_eq_some_iff.mp hw

theorem State.PoolWf.mem_of_entry (h : s.PoolWf) {i : PoolIx} {e : WaitEntry}
    (he : s.entry i = some e) : i ∈ s.queue e.resource :=
  (h.2 e.resource i).mpr (by simp [State.waitsOn, he])

/-- The entries of a queue are the resource's own. -/
theorem State.PoolWf.resource_of_mem (h : s.PoolWf) (r : Res) :
    ∀ i ∈ s.queue r, ∀ e ∈ s.entry i, e.resource = r := fun i hi e he => by
  obtain ⟨e', he', hr⟩ := h.entry_of_mem hi
  rw [Option.mem_def, he'] at he
  exact Option.some.inj he ▸ hr

theorem State.PoolWf.congr (h : s.PoolWf) (hq : ∀ r, t.queue r = s.queue r)
    (he : ∀ i, t.entry i = s.entry i) : t.PoolWf := by
  refine ⟨fun r => hq r ▸ h.1 r, fun r i => ?_⟩
  unfold State.waitsOn
  rw [hq r, he i]
  exact h.2 r i

theorem SameLeases.poolWf (e : SameLeases s t) (h : s.PoolWf) : t.PoolWf :=
  h.congr e.queue e.entry

theorem State.PoolWf.removeEntry (h : s.PoolWf) (i : PoolIx) : (s.removeEntry i).PoolWf := by
  cases he : s.entry i with
  | none =>
    have : s.removeEntry i = s := by unfold State.removeEntry; rw [he]
    rwa [this]
  | some e =>
    refine ⟨fun r => ?_, fun r j => ?_⟩
    · rw [State.queue_removeEntry he]
      split
      · exact (h.1 e.resource).erase i
      · exact h.1 r
    · unfold State.waitsOn
      rw [State.queue_removeEntry he, State.entry_removeEntry]
      by_cases hj : j = i
      · have hi : i ∈ s.queue r ↔ e.resource = r := by
          rw [h.2 r i]
          simp [State.waitsOn, he]
        subst hj
        by_cases hr : r = e.resource
        · simp [hr, (h.1 e.resource).mem_erase_iff]
        · simp only [if_neg hr, hi, if_true, Option.map_none, reduceCtorEq, iff_false]
          exact fun e' => hr e'.symm
      · rw [if_neg hj]
        split
        · rename_i hr
          rw [(h.1 e.resource).mem_erase_iff, hr]
          exact (and_iff_right hj).trans (h.2 e.resource j)
        · exact h.2 r j

/-- A new entry joins the queue of its resource once. -/
theorem State.PoolWf.allocate (h : s.PoolWf) {i : PoolIx} {e : WaitEntry} {q : List PoolIx}
    (wait : Ticks) (free : s.entry i = none) (hq : q.Perm (i :: s.queue e.resource)) :
    (s.allocate i e q wait).PoolWf := by
  have hi : ∀ r, i ∉ s.queue r := fun r hr => by
    obtain ⟨e', he', -⟩ := h.entry_of_mem hr
    rw [free] at he'
    cases he'
  refine ⟨fun r => ?_, fun r j => ?_⟩
  · rw [State.queue_allocate]
    split
    · exact hq.nodup_iff.mpr (List.nodup_cons.mpr ⟨hi _, h.1 _⟩)
    · exact h.1 r
  · unfold State.waitsOn
    rw [State.queue_allocate, State.entry_allocate]
    by_cases hj : j = i
    · rw [if_pos hj, hj]
      split
      · rename_i hr
        simp [hq.mem_iff, hr]
      · rename_i hr
        simp only [hi r, false_iff]
        exact fun e' => hr (Option.some.inj e').symm
    · rw [if_neg hj]
      split
      · rename_i hr
        rw [hq.mem_iff, List.mem_cons, hr]
        simp only [hj, false_or]
        exact h.2 e.resource j
      · exact h.2 r j

theorem State.PoolWf.grantEntry (h : s.PoolWf) (r : Res) (i : PoolIx) (e : WaitEntry) :
    (s.grantEntry r i e).PoolWf :=
  (h.removeEntry i).congr (s.queue_grantEntry r i e) (fun j => s.grantEntry_entry r i j e)

theorem State.PoolWf.grantHeads (h : s.PoolWf) (r : Res) (q : List PoolIx) :
    (s.grantHeads r q).PoolWf :=
  State.grantHeads_keeps (P := State.PoolWf) (fun _ i e _ _ _ ht => ht.grantEntry r i e) q h

theorem State.PoolWf.grantRule (h : s.PoolWf) (r : Res) : (s.grantRule r).PoolWf := by
  unfold State.grantRule
  split
  · exact h.grantHeads r _
  · exact h

/-! A resource at rest -/

/-- The resource's queue is as the grant rule leaves it, and empty where nothing may wait. -/
def State.rests (s : State) (r : Res) : Prop :=
  ((s.record r).state = .offline ∨ (s.record r).retirePending = true → s.queue r = [])
    ∧ s.settled r = true

theorem State.queuesWf_iff : s.QueuesWf ↔ ∀ r, s.rests r :=
  ⟨fun h r => ⟨h.1 r, h.2 r⟩, fun h => ⟨fun r => (h r).1, fun r => (h r).2⟩⟩

/-- Settled: the counter is exhausted, or the state grants nothing, or the head is incompatible. -/
theorem State.settled_iff {r : Res} :
    s.settled r = true
      ↔ s.exhausted = true ∨ (s.record r).state.grants = false
        ∨ ∀ i ∈ (s.queue r).head?, ∀ e ∈ s.entry i, (s.record r).compatible e = false := by
  unfold State.settled
  rw [Bool.or_eq_true, Bool.or_eq_true, Bool.not_eq_true', or_assoc]
  refine or_congr Iff.rfl (or_congr Iff.rfl ?_)
  cases (s.queue r).head? with
  | none => simp
  | some i => cases hi : s.entry i <;> simp [hi]

/-- Where the queue is empty, or the state grants nothing, there is nothing to settle. -/
theorem State.settled_of_queue_nil {r : Res} (h : s.queue r = []) : s.settled r = true :=
  State.settled_iff.mpr (.inr (.inr (by simp [h])))

theorem State.settled_of_not_grants {r : Res} (h : (s.record r).state.grants = false) :
    s.settled r = true := State.settled_iff.mpr (.inr (.inl h))

theorem State.rests_of_queue_nil {r : Res} (h : s.queue r = []) : s.rests r :=
  ⟨fun _ => h, State.settled_of_queue_nil h⟩

/-- A resource whose record, queue and entries are as they were rests on. -/
theorem State.rests.congr {r : Res} (h : s.rests r) (hr : t.record r = s.record r)
    (hq : t.queue r = s.queue r) (he : ∀ i ∈ s.queue r, t.entry i = s.entry i)
    (hx : s.exhausted = true → t.exhausted = true) : t.rests r := by
  refine ⟨?_, ?_⟩
  · rw [hr, hq]
    exact h.1
  · rw [State.settled_iff, hr, hq]
    refine (State.settled_iff.mp h.2).imp hx (Or.imp id fun hc i hi => ?_)
    rw [he i (List.mem_of_mem_head? hi)]
    exact hc i hi

/-- What happens on another resource leaves this one at rest. -/
theorem State.rests.elsewhere {r k : Res} (h : s.rests k) (hp : s.PoolWf) (hk : k ≠ r)
    (e : s.sameElsewhere t r) (hx : s.exhausted = true → t.exhausted = true) : t.rests k := by
  obtain ⟨hsame, hentries, -⟩ := e
  obtain ⟨hr, hq⟩ := hsame k hk
  refine h.congr hr hq (fun i hi => hentries i fun hw => hk ?_) hx
  exact Option.some.inj (((hp.2 k i).mp hi).symm.trans hw)

/-- The pool is partitioned into the queues and every resource rests. -/
structure State.Rested (s : State) : Prop where
  pool : s.PoolWf
  queues : ∀ r, s.rests r

/-- The pool is partitioned into the queues and every resource but `r` rests. -/
structure State.RestsBeside (s : State) (r : Res) : Prop where
  pool : s.PoolWf
  others : ∀ k, k ≠ r → s.rests k

/-- Every resource but `r` rests, and nothing waits on `r` where nothing may. -/
structure State.Settling (s : State) (r : Res) : Prop extends s.RestsBeside r where
  closed : (s.record r).state = .offline ∨ (s.record r).retirePending = true → s.queue r = []

theorem State.Rested.settling (h : s.Rested) (r : Res) : s.Settling r :=
  ⟨⟨h.pool, fun k _ => h.queues k⟩, (h.queues r).1⟩

theorem State.Settling.rested {r : Res} (h : s.Settling r) (hr : s.settled r = true) : s.Rested :=
  ⟨h.pool, fun k => by
    by_cases hk : k = r
    · exact hk ▸ ⟨h.closed, hr⟩
    · exact h.others k hk⟩

theorem SameLeases.rested (e : SameLeases s t) (h : s.Rested) : t.Rested :=
  ⟨e.poolWf h.pool, fun r => (h.queues r).congr (e.record r) (e.queue r) (fun i _ => e.entry i)
    fun hx => e.exhausted.trans hx⟩

/-- An operation on `r` leaves the other resources at rest. -/
theorem State.RestsBeside.follow {r : Res} (h : s.RestsBeside r) (e : s.sameElsewhere t r)
    (hx : s.exhausted = true → t.exhausted = true) (hp : t.PoolWf) : t.RestsBeside r :=
  ⟨hp, fun k hk => (h.others k hk).elsewhere h.pool hk e hx⟩

theorem SameLeases.restsBeside {r : Res} (e : SameLeases s t) (h : s.RestsBeside r) :
    t.RestsBeside r :=
  ⟨e.poolWf h.pool, fun k hk => (h.others k hk).congr (e.record k) (e.queue k)
    (fun i _ => e.entry i) fun hx => e.exhausted.trans hx⟩

theorem SameLeases.settling {r : Res} (e : SameLeases s t) (h : s.Settling r) : t.Settling r := by
  refine ⟨e.restsBeside h.toRestsBeside, ?_⟩
  rw [e.record, e.queue]
  exact h.closed

/-! The operations on one resource -/

theorem State.RestsBeside.setRecord {r : Res} (h : s.RestsBeside r) (x : Record) :
    (s.setRecord r x).RestsBeside r :=
  h.follow (s.setRecord_elsewhere r x) id (h.pool.congr (fun _ => rfl) fun _ => rfl)

theorem State.Settling.setRecord {r : Res} (h : s.Settling r) {x : Record}
    (hc : x.state = .offline ∨ x.retirePending = true → s.queue r = []) :
    (s.setRecord r x).Settling r := by
  refine ⟨h.toRestsBeside.setRecord x, ?_⟩
  rw [State.record_setRecord_self]
  exact hc

theorem State.exhausted_removeEntry (s : State) (i : PoolIx) :
    (s.removeEntry i).exhausted = s.exhausted := by
  unfold State.exhausted
  rw [State.nextToken_removeEntry]

theorem State.RestsBeside.removeMember {r : Res} (h : s.RestsBeside r) {i : PoolIx}
    (hi : i ∈ s.queue r) : (s.removeEntry i).RestsBeside r :=
  h.follow (s.removeEntry_elsewhere (h.pool.resource_of_mem r i hi))
    (fun hx => (s.exhausted_removeEntry i).trans hx) (h.pool.removeEntry i)

theorem State.Settling.removeMember {r : Res} (h : s.Settling r) {i : PoolIx}
    (hi : i ∈ s.queue r) : (s.removeEntry i).Settling r := by
  refine ⟨h.toRestsBeside.removeMember hi, fun hc => ?_⟩
  rw [State.record_removeEntry] at hc
  rw [h.closed hc] at hi
  cases hi

theorem State.RestsBeside.cancelMember {r : Res} (h : s.RestsBeside r) {i : PoolIx}
    (hi : i ∈ s.queue r) : (s.cancelEntry i).RestsBeside r := by
  obtain ⟨u, hu, e⟩ := s.cancelEntry_eq i
  rw [e]
  refine (hu.restsBeside h).removeMember ?_
  rw [hu.queue]
  exact hi

theorem State.Settling.cancelMember {r : Res} (h : s.Settling r) {i : PoolIx}
    (hi : i ∈ s.queue r) : (s.cancelEntry i).Settling r := by
  refine ⟨h.toRestsBeside.cancelMember hi, fun hc => ?_⟩
  rw [State.record_cancelEntry] at hc
  rw [h.closed hc] at hi
  cases hi

/-! The grant rule settles the resource -/

theorem State.grantHeads_frees (s : State) (r : Res) (q : List PoolIx) :
    ((s.grantHeads r q).record r).retirePending = (s.record r).retirePending := by
  refine State.grantHeads_keeps
    (P := fun t : State => (t.record r).retirePending = (s.record r).retirePending)
    (fun t i e _ _ _ ht => ?_) q rfl
  rw [State.record_grantEntry, if_pos rfl]
  exact ht

theorem State.grantHeads_grants {r : Res} (h : (s.record r).state.grants = true)
    (q : List PoolIx) : ((s.grantHeads r q).record r).state.grants = true :=
  State.grantHeads_keeps (P := fun t : State => (t.record r).state.grants = true)
    (fun t i e _ _ _ _ => t.grants_grantEntry r i e) q h

/-- The head of a queue leaves it when it is granted. -/
theorem State.queue_grantEntry_head (h : s.PoolWf) {r : Res} {i : PoolIx} {e : WaitEntry}
    {rest : List PoolIx} (hq : s.queue r = i :: rest) (he : s.entry i = some e) :
    (s.grantEntry r i e).queue r = rest := by
  have hr : e.resource = r := h.resource_of_mem r i (by simp [hq]) e he
  rw [State.queue_grantEntry, State.queue_removeEntry he, if_pos hr.symm, hr, hq,
    List.erase_cons_head]

/-- The run of the grant rule over the whole queue ends with nothing left to grant. -/
theorem State.grantHeads_settles (h : s.PoolWf) {r : Res} {q : List PoolIx} (hq : s.queue r = q) :
    (s.grantHeads r q).settled r = true := by
  induction q generalizing s with
  | nil => exact State.settled_of_queue_nil hq
  | cons i rest ih =>
    obtain ⟨e, he, -⟩ := h.entry_of_mem (r := r) (i := i) (by simp [hq])
    by_cases granted : s.exhausted = false ∧ (s.record r).compatible e = true
    · rw [State.grantHeads_cons_granted he granted.1 granted.2]
      exact ih (h.grantEntry r i e) (State.queue_grantEntry_head h hq he)
    · have stops : s.exhausted = true ∨ (s.record r).compatible e = false := by
        cases hx : s.exhausted <;> simp_all
      rw [State.grantHeads_cons_stopped fun e' he' => Option.some.inj (he.symm.trans he') ▸ stops]
      refine State.settled_iff.mpr (stops.imp id fun hc => .inr fun j hj e' he' => ?_)
      have hj' : i = j := by simpa [hq] using hj
      subst hj'
      exact Option.some.inj (he.symm.trans he') ▸ hc

theorem State.exhausted_grantRule {r : Res} (h : s.exhausted = true) :
    (s.grantRule r).exhausted = true := by
  rw [State.grantRule_of_exhausted h]
  exact h

/-- After the grant rule every resource rests. -/
theorem State.Settling.grantRule {r : Res} (h : s.Settling r) : (s.grantRule r).Rested := by
  cases hg : (s.record r).state.grants with
  | false =>
    rw [State.grantRule_of_not_grants hg]
    exact h.rested (State.settled_of_not_grants hg)
  | true =>
    have hsettled : (s.grantRule r).settled r = true := by
      rw [State.grantRule_of_grants hg]
      exact State.grantHeads_settles h.pool rfl
    refine State.Settling.rested ⟨h.toRestsBeside.follow
      (s.grantRule_elsewhere (h.pool.resource_of_mem r)) State.exhausted_grantRule
      (h.pool.grantRule r), fun hc => ?_⟩ hsettled
    rw [State.grantRule_of_grants hg] at hc ⊢
    have hnil : s.queue r = [] := by
      refine h.closed (.inr ?_)
      rcases hc with ho | hr
      · have := State.grantHeads_grants hg (s.queue r)
        rw [ho] at this
        cases this
      · rwa [State.grantHeads_frees] at hr
    rw [hnil, State.grantHeads_nil, hnil]

/-! The release path -/

theorem State.Settling.vacate {r : Res} (h : s.Settling r) (c : Client) :
    (s.vacate r c).Settling r :=
  (s.vacate_sameLeases r c).settling (h.setRecord h.closed)

/-- What follows the last holder brings the resource to rest: DRAINING grants nothing, OFFLINE has
no waiters, and IDLE runs the grant rule (R34). -/
theorem State.Settling.lastHolderLeft {r : Res} (h : s.Settling r) :
    (s.lastHolderLeft r).Rested := by
  have ht : (if (s.record r).state = .revoking then s.disarm (.grace r) else s).Settling r := by
    split
    · exact (s.disarm_sameLeases _).settling h
    · exact h
  have hq : (if (s.record r).state = .revoking then s.disarm (.grace r) else s).queue r
      = s.queue r := by split <;> rfl
  unfold State.lastHolderLeft
  dsimp only
  generalize (if (s.record r).state = .revoking then s.disarm (.grace r) else s) = u at ht hq ⊢
  split
  · have draining := ht.setRecord
      (x := { s.record r with state := .draining, heldMode := none, deadline := .guard })
      fun hc => hq.trans (h.closed (.inr (hc.resolve_left nofun)))
    refine (State.arm_sameLeases _ _ _).rested (draining.rested (State.settled_of_not_grants ?_))
    rw [State.record_setRecord_self]
    rfl
  · split
    · rename_i hr
      have hnil : u.queue r = [] := hq.trans (h.closed (.inr hr))
      exact (ht.setRecord fun _ => hnil).rested (State.settled_of_queue_nil hnil)
    · rename_i hr
      have idle := ht.setRecord
        (x := { s.record r with state := .idle, heldMode := none, deadline := .absent })
        fun hc => absurd (hc.resolve_left nofun) hr
      exact idle.grantRule

/-- The release path of a lease brings the resource to rest, unless a REVOKE goes on with it. -/
theorem State.Settling.endLease {r : Res} (h : s.Settling r) (hw : (s.record r).Wf) (c : Client) :
    (s.endLease r c false).Rested := by
  by_cases hlast : ((s.record r).setLease c none).holders = []
  · rw [State.endLease_of_last false hlast]
    exact (h.vacate c).lastHolderLeft
  · rw [State.endLease_of_more false hlast]
    split
    · exact (h.vacate c).grantRule
    · rename_i hs
      refine (h.vacate c).rested (State.settled_of_not_grants ?_)
      have hstate := (hw.vacated hlast).1.mp hlast
      rw [State.record_vacate_self, hstate.resolve_left fun e => hs ⟨e, rfl⟩]
      rfl

theorem State.Settling.removeUpgrade {r : Res} (h : s.Settling r) (c : Client) :
    (s.removeUpgrade r c).Settling r := by
  unfold State.removeUpgrade
  split
  · rename_i i hi
    exact h.removeMember (List.mem_of_find?_eq_some hi)
  · exact h

/-- A member of the holders that is not the last leaves its slot and nothing else. -/
theorem State.removeHolder_of_more {r : Res} {c : Client} {rest : List Client}
    (hh : (s.record r).holders = c :: rest) (hrest : rest ≠ []) :
    ∃ w, State.removeHolder r s c = (s.notify c r w).vacate r c
      ∧ ((State.removeHolder r s c).record r).holders = rest := by
  obtain ⟨l, hl⟩ := Option.isSome_iff_exists.mp
    (mem_holders.mp (hh ▸ List.mem_cons_self : c ∈ (s.record r).holders))
  have hu := s.notify_sameLeases c r (.leaseRevoked l.token)
  have hleft : (((s.notify c r (.leaseRevoked l.token)).record r).setLease c none).holders
      = rest := by
    rw [hu.record, Record.holders_setLease_none, hh, List.erase_cons_head]
  have e : State.removeHolder r s c = (s.notify c r (.leaseRevoked l.token)).vacate r c := by
    unfold State.removeHolder
    rw [hl]
    refine (State.endLease_of_more true (hleft ▸ hrest)).trans (if_neg ?_)
    exact fun h => absurd h.2 nofun
  refine ⟨_, e, ?_⟩
  rw [e, State.record_vacate_self, hleft]

/-- The last holder's removal goes on to what R34 says. -/
theorem State.removeHolder_of_last {r : Res} {c : Client} (hh : (s.record r).holders = [c]) :
    ∃ w, State.removeHolder r s c = ((s.notify c r w).vacate r c).lastHolderLeft r := by
  obtain ⟨l, hl⟩ := Option.isSome_iff_exists.mp
    (mem_holders.mp (hh ▸ List.mem_cons_self : c ∈ (s.record r).holders))
  refine ⟨.leaseRevoked l.token, ?_⟩
  unfold State.removeHolder
  rw [hl]
  refine State.endLease_of_last true ?_
  rw [(s.notify_sameLeases c r _).record, Record.holders_setLease_none, hh, List.erase_cons_head]

/-- An induction over the removal of every holder: what each removal but the last keeps, and what
the last brings about. -/
theorem State.removeHolders_induct {I J : State → Prop} {r : Res}
    (more : ∀ (u : State) (c : Client) (rest : List Client), (u.record r).holders = c :: rest →
      rest ≠ [] → I u → I (State.removeHolder r u c))
    (last : ∀ (u : State) (c : Client), (u.record r).holders = [c] → I u →
      J (State.removeHolder r u c))
    (hh : (s.record r).holders ≠ []) (h : I s) : J (s.removeHolders r) := by
  have run : ∀ (l : List Client) (u : State), (u.record r).holders = l → l ≠ [] → I u →
      J (l.foldl (State.removeHolder r) u) := by
    intro l
    induction l with
    | nil => exact fun _ _ hne _ => absurd rfl hne
    | cons c rest ih =>
      intro u hu _ hI
      by_cases hrest : rest = []
      · subst hrest
        exact last u c hu hI
      · obtain ⟨-, -, hleft⟩ := State.removeHolder_of_more hu hrest
        exact ih _ hleft hrest (more u c rest hu hrest hI)
  exact run _ s rfl hh h

/-- The removal of every holder brings the resource to rest. -/
theorem State.Settling.removeHolders {r : Res} (h : s.Settling r)
    (hh : (s.record r).holders ≠ []) : (s.removeHolders r).Rested := by
  refine State.removeHolders_induct (I := fun u => u.Settling r) ?_ ?_ hh h
  · intro u c rest hu hrest hI
    obtain ⟨w, e, -⟩ := State.removeHolder_of_more hu hrest
    rw [e]
    exact ((u.notify_sameLeases c r w).settling hI).vacate c
  · intro u c hu hI
    obtain ⟨w, e⟩ := State.removeHolder_of_last hu
    rw [e]
    exact (((u.notify_sameLeases c r w).settling hI).vacate c).lastHolderLeft

/-! Sessions that end -/

/-- What both a step's records and its queues keep. -/
structure State.Ordered (s : State) : Prop where
  records : s.RecordsWf
  rested : s.Rested

theorem SameLeases.ordered (e : SameLeases s t) (h : s.Ordered) : t.Ordered :=
  ⟨e.recordsWf h.records, e.rested h.rested⟩

theorem State.Rested.dropWait (h : s.Rested) (c : Client) (r : Res) : (s.dropWait c r).Rested := by
  unfold State.dropWait
  split
  · rename_i i hi
    exact ((h.settling r).removeMember (List.mem_of_find?_eq_some hi)).grantRule
  · exact h

theorem State.RecordsWf.dropWait (h : s.RecordsWf) (c : Client) (r : Res) :
    (s.dropWait c r).RecordsWf := by
  unfold State.dropWait
  split
  · exact (h.removeEntry _).grantRule r
  · exact h

theorem State.Ordered.releaseResource (h : s.Ordered) (c : Client) (r : Res) :
    (State.releaseResource c s r).Ordered := by
  refine ⟨h.records.releaseResource c r, ?_⟩
  have hd := h.rested.dropWait c r
  unfold State.releaseResource State.dropLease
  split
  · exact (hd.settling r).endLease (h.records.dropWait c r r) c
  · exact hd

theorem State.Ordered.massRelease (h : s.Ordered) (c : Client) : (s.massRelease c).Ordered :=
  (State.discardNotices_sameLeases _ c).ordered
    (List.foldlRecOn (motive := State.Ordered) _ _ h fun _ ht r _ => ht.releaseResource c r)

theorem State.Ordered.closeNow (h : s.Ordered) (c : Client) : (s.closeNow c).Ordered :=
  (State.endSession_sameLeases _ c _).ordered
    (((s.disarm_sameLeases _).ordered h).massRelease c)

theorem State.Ordered.evictNow (h : s.Ordered) (c : Client) : (s.evictNow c).Ordered :=
  ((State.placeSessionNotice_sameLeases _ c _).trans (State.endSession_sameLeases _ c _)).ordered
    (((s.disarm_sameLeases _).ordered h).massRelease c)

theorem State.Ordered.lapseNow (h : s.Ordered) (c : Client) : (s.lapseNow c).Ordered :=
  (((State.placeSessionNotice_sameLeases _ c _).trans (State.endSession_sameLeases _ c _)).trans
    (State.raise_sameLeases _ _)).ordered (h.massRelease c)

/-! The deliveries -/

theorem State.Ordered.holdExpired (h : s.Ordered) (r : Res) (c : Client) :
    (s.holdExpired r c).Rested := by
  unfold State.holdExpired
  split
  · rename_i l _
    have hn := (s.notify_sameLeases c r (.leaseExpired l.token)).ordered h
    exact ((hn.rested.settling r).removeUpgrade c).endLease (hn.records.removeUpgrade r c r) c
  · exact h.rested

theorem State.Rested.waitExpired (h : s.Rested) (i : PoolIx) : (s.waitExpired i).Rested := by
  unfold State.waitExpired
  split
  · rename_i e he
    have hn := (s.notify_sameLeases e.client e.resource .claimTimedOut).rested h
    exact ((hn.settling e.resource).removeMember (hn.pool.mem_of_entry he)).grantRule
  · exact h

theorem State.Ordered.graceExpired (h : s.Ordered) (r : Res) : (s.graceExpired r).Rested := by
  unfold State.graceExpired
  split
  · rename_i hd
    have hs : (s.record r).state = .revoking := (h.records r).2.1.mp hd
    have hh : (s.record r).holders ≠ [] := (h.records r).1.mpr (.inr hs)
    exact (State.raise_sameLeases _ _).rested ((h.rested.settling r).removeHolders hh)
  · exact h.rested

theorem State.Rested.goOffline (h : s.Rested) {r : Res} (hq : s.queue r = []) :
    (s.goOffline r).Rested :=
  ((h.settling r).setRecord fun _ => hq).rested (State.settled_of_queue_nil hq)

theorem State.Rested.guardExpired (h : s.Rested) (r : Res) : (s.guardExpired r).Rested := by
  unfold State.guardExpired
  dsimp only
  split
  · split
    · rename_i hr
      exact h.goOffline ((h.queues r).1 (.inr hr))
    · rename_i hr
      have idle := (h.settling r).setRecord
        (x := { s.record r with state := .idle, deadline := .absent })
        fun hc => absurd (hc.resolve_left nofun) hr
      exact idle.grantRule
  · exact h

theorem State.Ordered.deliver (h : s.Ordered) (id : DeadlineId) : (s.deliver id).Ordered := by
  refine ⟨h.records.deliver id, ?_⟩
  cases id with
  | hold r c => exact h.holdExpired r c
  | wait i => exact h.rested.waitExpired i
  | session c =>
    show (s.sessionExpired c).Rested
    unfold State.sessionExpired
    split
    · exact (h.lapseNow c).rested
    · exact h.rested
  | grace r => exact h.graceExpired r
  | guard r => exact h.rested.guardExpired r

/-! Requests that queue, grant or cancel -/

theorem State.entry_freeIndex {i : PoolIx} (h : s.freeIndex = some i) : s.entry i = none := by
  simpa using List.find?_some h

/-- A queued request leaves its resource to settle, where it may wait at all. -/
theorem State.Settling.allocate {e : WaitEntry} (h : s.Settling e.resource) {i : PoolIx}
    {q : List PoolIx} (wait : Ticks) (free : s.freeIndex = some i)
    (hq : q.Perm (i :: s.queue e.resource)) (ho : (s.record e.resource).state ≠ .offline)
    (hr : (s.record e.resource).retirePending = false) :
    (s.allocate i e q wait).Settling e.resource := by
  have hnone := State.entry_freeIndex free
  have hi : ∀ k, i ∉ s.queue k := fun k hk => by
    obtain ⟨e', he', -⟩ := h.pool.entry_of_mem hk
    rw [hnone] at he'
    cases he'
  refine ⟨⟨h.pool.allocate wait hnone hq, fun k hk => ?_⟩, fun hc => ?_⟩
  · refine (h.others k hk).congr (s.record_allocate i e q wait k) ?_ (fun j hj => ?_) fun hx => ?_
    · rw [State.queue_allocate, if_neg hk]
    · rw [State.entry_allocate, if_neg fun e' : j = i => hi k (e' ▸ hj)]
    · unfold State.exhausted at hx ⊢
      rw [State.nextToken_allocate]
      exact hx
  · rw [State.record_allocate] at hc
    exact hc.elim (fun e' => absurd e' ho) fun e' => absurd (hr ▸ e') nofun

/-- The checks of a claim that the queues rest on (TABLE 2-3). -/
theorem State.claimChecks_open {c : Client} {r : Res} {m : Mode}
    (hc : firstFailing (s.claimChecks c r m) = none) :
    (s.record r).state ≠ .offline ∧ (s.record r).retirePending = false ∧ s.waits r c = false
      ∧ s.exhausted = false := by
  obtain ⟨ho, hr, -, -, -, hw, -, hx⟩ : (s.record r).state ≠ .offline
      ∧ (s.record r).retirePending = false ∧ (s.record r).permits c = true
      ∧ (s.record r).attrs.modes.allows m = true ∧ s.holds r c = false ∧ s.waits r c = false
      ∧ ((s.session c).involves r = true ∨ (s.session c).tally < 15) ∧ s.exhausted = false := by
    simpa [firstFailing_eq_none, State.claimChecks] using hc
  exact ⟨ho, hr, hw, hx⟩

/-- A client that does not wait on the resource has no entry in its queue. -/
theorem State.client_ne_of_not_waits {r : Res} {c : Client} (h : s.waits r c = false) {i : PoolIx}
    (hi : i ∈ s.queue r) {e : WaitEntry} (he : s.entry i = some e) : e.client ≠ c := by
  have hnone : ∀ j ∈ s.queue r, s.entryOf c j = false := by
    simpa [State.waits, State.waitOf] using h
  simpa [State.entryOf, he] using hnone i hi

/-- A grant outside the queue leaves the other resources at rest, and this one too where its head is
incompatible with the new holder. -/
theorem State.Rested.grant (h : s.Rested) {r : Res} {c : Client} {m : Mode} (hold : Ticks)
    (hx : s.exhausted = false) (hr : (s.record r).retirePending = false)
    (head : ∀ i ∈ (s.queue r).head?, ∀ e ∈ s.entry i,
      ((s.record r).granted c s.newLease m).compatible e = false) :
    (s.grant r c m hold).Rested := by
  have hrec : (s.grant r c m hold).record r = (s.record r).granted c s.newLease m := by
    rw [State.record_grant, if_pos rfl]
  have hp : (s.grant r c m hold).PoolWf :=
    h.pool.congr (s.queue_grant r c m hold) (s.grant_entry r c m hold)
  have beside : (s.grant r c m hold).RestsBeside r :=
    (h.settling r).toRestsBeside.follow (s.grant_elsewhere r c m hold)
      (fun e => absurd (hx.symm.trans e) nofun) hp
  refine State.Settling.rested ⟨beside, ?_⟩ (State.settled_iff.mpr (.inr (.inr ?_)))
  · rw [hrec]
    exact fun hc => absurd (hr.symm.trans (hc.resolve_left nofun)) nofun
  · rw [hrec, State.queue_grant]
    intro i hi
    rw [State.grant_entry]
    exact head i hi

/-- With holders, or none, nothing but an UPGRADE of the sole holder is compatible with an EXCLUSIVE
record. -/
theorem Record.compatible_false_of_upgrade {x : Record} {e : WaitEntry} (hk : e.kind = .upgrade)
    (hh : x.holders ≠ [e.client]) : x.compatible e = false := by
  unfold Record.compatible
  rw [hk]
  exact beq_eq_false_iff_ne.mpr hh

/-- In an IDLE record that rests only an UPGRADE entry can be at the head. -/
theorem State.rests.head_upgrade {r : Res} (h : s.rests r) (hw : (s.record r).Wf)
    (hx : s.exhausted = false) (hs : (s.record r).state = .idle) :
    ∀ i ∈ (s.queue r).head?, ∀ e ∈ s.entry i, e.kind = .upgrade := by
  have hg : (s.record r).state.grants = true := by rw [hs]; rfl
  have hh : (s.record r).holders = [] := hw.holders_nil (by simp [hs]) (by simp [hs])
  intro i hi e he
  have hc : (s.record r).compatible e = false := by
    rcases State.settled_iff.mp h.2 with h' | h' | h'
    · rw [hx] at h'; cases h'
    · rw [hg] at h'; cases h'
    · exact h' i hi e he
  unfold Record.compatible at hc
  cases hk : e.kind with
  | upgrade => rfl
  | shared => simp [hk, hh] at hc
  | exclusive => simp [hk, hh] at hc

/-- A claim granted at once: no waiter becomes grantable by it (R30, R32). -/
theorem State.Ordered.claimed (h : s.Ordered) {c : Client} {r : Res} {m : Mode} (hold : Ticks)
    (hc : firstFailing (s.claimChecks c r m) = none) (hnow : s.grantableNow r m = true) :
    (s.grant r c m hold).Rested := by
  obtain ⟨-, hr, hw, hx⟩ := State.claimChecks_open hc
  refine h.rested.grant hold hx hr fun i hi e he => ?_
  have hmem : i ∈ s.queue r := List.mem_of_mem_head? hi
  rcases State.grantableNow_iff.mp hnow with hidle | ⟨-, -, -, hnil⟩
  · have hk := (h.rested.queues r).head_upgrade (h.records r) hx hidle i hi e he
    have hne := State.client_ne_of_not_waits hw hmem he
    have hh : (s.record r).holders = [] :=
      (h.records r).holders_nil (by simp [hidle]) (by simp [hidle])
    refine Record.compatible_false_of_upgrade hk fun e' => hne ?_
    have hsole := Record.holders_granted_sole (x := s.record r) (c := c) s.newLease m (by simp [hh])
    exact (List.singleton_inj.mp (hsole.symm.trans e')).symm
  · rw [hnil] at hmem
    cases hmem

/-- An upgrade granted at once: no waiter becomes grantable by it (R54). -/
theorem State.Ordered.upgraded (h : s.Ordered) {c : Client} {r : Res} (hold : Ticks)
    (hc : firstFailing (s.upgradeChecks c r) = none) (sole : (s.record r).holders = [c]) :
    (s.grant r c .exclusive hold).Rested := by
  obtain ⟨hheld, hshared, hr, hx⟩ := State.upgradeChecks_held h.records hc
  have hsole : ((s.record r).granted c s.newLease .exclusive).holders = [c] :=
    Record.holders_granted_sole _ _ fun k hk => by
      rw [sole] at hk
      exact List.mem_singleton.mp hk
  refine h.rested.grant hold hx hr fun i hi e he => ?_
  have hbefore : (s.record r).compatible e = false := by
    rcases State.settled_iff.mp (h.rested.queues r).2 with h' | h' | h'
    · rw [hx] at h'; cases h'
    · rw [hheld] at h'; cases h'
    · exact h' i hi e he
  unfold Record.compatible at hbefore ⊢
  rw [hsole]
  cases hk : e.kind with
  | upgrade => simpa [hk, sole] using hbefore
  | exclusive => rfl
  | shared => simp [hk, hshared] at hbefore

/-- The cancelling of a whole queue empties it. -/
theorem State.RestsBeside.cancelQueue {r : Res} (h : s.RestsBeside r) :
    (s.cancelQueue r).RestsBeside r ∧ (s.cancelQueue r).queue r = [] := by
  have run : ∀ (q : List PoolIx) (u : State), u.queue r = q → u.RestsBeside r →
      (q.foldl State.cancelEntry u).RestsBeside r
        ∧ (q.foldl State.cancelEntry u).queue r = [] := by
    intro q
    induction q with
    | nil => exact fun u hq hu => ⟨hu, hq⟩
    | cons i rest ih =>
      intro u hq hu
      have hi : i ∈ u.queue r := by simp [hq]
      obtain ⟨e, he, her⟩ := hu.pool.entry_of_mem hi
      refine ih _ ?_ (hu.cancelMember hi)
      obtain ⟨v, hv, e'⟩ := u.cancelEntry_eq i
      rw [e', State.queue_removeEntry ((hv.entry i).trans he), if_pos her.symm, her, hv.queue, hq,
        List.erase_cons_head]
  exact run _ s rfl h

/-- A resource without waiters rests. -/
theorem State.RestsBeside.rested {r : Res} (h : s.RestsBeside r) (hq : s.queue r = []) : s.Rested :=
  State.Settling.rested ⟨h, fun _ => hq⟩ (State.settled_of_queue_nil hq)

theorem State.Settling.cancelUpgrade {r : Res} (h : s.Settling r) :
    (s.cancelUpgrade r).Settling r := by
  unfold State.cancelUpgrade
  split
  · rename_i i hi
    exact h.cancelMember (List.mem_of_mem_head? (Option.filter_eq_some_iff.mp hi).1)
  · exact h

/-! The events -/

theorem State.rested_of_empty (he : ∀ i, s.entry i = none) (hq : ∀ r, s.queue r = []) :
    s.Rested :=
  ⟨⟨fun r => by simp [hq r], fun r i => by simp [hq r, State.waitsOn, he i]⟩,
    fun r => State.rests_of_queue_nil (hq r)⟩

theorem Event.keeps_ordered (s t : State) (e : Event s t) (h : s.Ordered) : t.Ordered := by
  refine ⟨e.keeps_recordsWf s t h.records, ?_⟩
  cases e with
  | outside same => exact same.leases.rested h.rested
  | deviceReset same =>
    exact same.leases.rested (State.rested_of_empty State.reset_entry State.reset_queue)
  | clearAll =>
    exact State.rested_of_empty (fun i => Vec.get_replicate _ i) fun r => Vec.get_replicate _ r
  | tick =>
    exact (State.tick_keeps (P := State.Ordered) (fun u t => (u.setClock_sameLeases t).ordered)
      (fun u d rest _ hu => ((u.setDeadlines_sameLeases rest).ordered hu).deliver d.id) h).rested
  | expiry id _ => exact (((s.disarm_sameLeases id).ordered h).deliver id).rested
  | kept c => exact (s.keepSession_sameLeases c).rested h.rested
  | opened c ttl _ => exact (s.openNow_sameLeases c ttl).rested h.rested
  | closed c _ => exact (h.closeNow c).rested
  | evicted c _ => exact (h.evictNow c).rested
  | policySet c p => exact (s.setSession_sameLeases c _).rested h.rested
  | fetched c n rest _ =>
    exact ((s.setNoticeQueue_sameLeases c _).trans
      (State.reportRemoved_sameLeases _ c n)).rested h.rested
  | attentionSet c m _ => exact (s.setNoticeQueue_sameLeases c _).rested h.rested
  | claimed c r m hold _ checks now => exact h.claimed hold checks now
  | claimQueued c r m hold wait i _ checks _ _ free =>
    obtain ⟨ho, hr, -, -⟩ := State.claimChecks_open checks
    exact ((h.rested.settling r).allocate
      (e := { resource := r, client := c, kind := m.waitKind, hold }) wait free
      (List.perm_append_singleton i _) ho hr).grantRule
  | upgraded c r hold _ checks sole => exact h.upgraded hold checks sole
  | upgradeQueued c r hold wait i _ checks _ _ free =>
    obtain ⟨hheld, -, hr, -⟩ := State.upgradeChecks_held h.records checks
    exact ((h.rested.settling r).allocate
      (e := { resource := r, client := c, kind := .upgrade, hold }) wait free
      (List.Perm.refl _) (by simp [hheld]) hr).grantRule
  | renewed c r hold _ _ _ => exact (s.arm_sameLeases _ _).rested h.rested
  | released c r _ _ =>
    exact ((h.rested.settling r).removeUpgrade c).endLease (h.records.removeUpgrade r c r) c
  | downgraded c r _ _ =>
    have lowered := (h.rested.settling r).setRecord
      (x := { s.record r with heldMode := some .shared }) (h.rested.settling r).closed
    exact ((State.report_sameLeases _ r c).settling lowered).grantRule
  | withdrawn c r i _ waits =>
    exact ((h.rested.settling r).removeMember (List.mem_of_find?_eq_some waits)).grantRule
  | defined r a offline =>
    have hnil : s.queue r = [] := (h.rested.queues r).1 (.inl offline)
    exact ((h.rested.settling r).setRecord fun _ => hnil).rested (State.settled_of_queue_nil hnil)
  | amended r a _ _ _ =>
    refine ((h.rested.settling r).setRecord (x := { s.record r with attrs := a })
      (h.rested.settling r).closed).rested ?_
    rw [State.settled_iff, State.record_setRecord_self]
    exact State.settled_iff.mp (h.rested.queues r).2
  | revoked r _ _ =>
    have hc := (h.rested.settling r).cancelUpgrade
    have hw := (SameLeases.foldl (fun u c => u.warnHolder_sameLeases r c)
      ((s.cancelUpgrade r).record r).holders (s.cancelUpgrade r)).settling hc
    refine (State.arm_sameLeases _ _ _).rested ((hw.setRecord fun hx => ?_).rested
      (State.settled_of_not_grants ?_))
    · exact hw.closed (.inr (hx.resolve_left nofun))
    · rw [State.record_setRecord_self]
      rfl
  | revokedAtOnce r held _ =>
    refine (State.raise_sameLeases _ _).rested
      ((h.rested.settling r).cancelUpgrade.removeHolders ?_)
    rw [State.record_cancelUpgrade]
    exact (h.records r).1.mpr (.inl held)
  | retired r _ _ =>
    obtain ⟨hc, hnil⟩ := (h.rested.settling r).toRestsBeside.cancelQueue
    exact (hc.rested hnil).goOffline hnil
  | retiring r _ _ _ =>
    obtain ⟨hc, hnil⟩ := ((h.rested.settling r).toRestsBeside.setRecord
      { s.record r with retirePending := true }).cancelQueue
    exact hc.rested hnil

end

/-- Settles O56: every event keeps the records, the pool and the queues together. -/
theorem noCompatibleHeadIsLeftWaiting : Obligations.NoCompatibleHeadIsLeftWaiting := by
  intro s t hrecords hwaiters hqueues hstep
  have h : s.Ordered := ⟨hrecords, hwaiters.1, State.queuesWf_iff.mp hqueues⟩
  exact State.queuesWf_iff.mpr (step_keeps Event.keeps_ordered hstep h).rested.queues

end Sys2Proof.Machine
end

section
/-! PROOF. Every armed deadline keeps its owner, and the owners that need a deadline keep it (R2,
R78). While the delivery of an expiry or the end of a session is under way, one watched deadline is
gone though its owner may still stand: the invariant carries it as spared. -/

namespace Sys2Proof.Machine

/-! Armed deadlines -/

section
variable {s t : State}

theorem State.armed_congr (h : t.deadlines = s.deadlines) (id : DeadlineId) :
    t.armed id = s.armed id := by
  unfold State.armed State.deadlineOf
  rw [h]

theorem State.armed_iff_mem {id : DeadlineId} :
    s.armed id = true ↔ ∃ d ∈ s.deadlines, d.id = id := by
  simp [State.armed, State.deadlineOf]

theorem State.armed_disarm (s : State) (id k : DeadlineId) :
    (s.disarm id).armed k = if k = id then false else s.armed k := by
  split
  · rename_i h
    rw [h, State.armed_disarm_self]
  · rename_i h
    unfold State.armed
    rw [State.deadlineOf_disarm s h]

theorem State.armed_arm (s : State) (id k : DeadlineId) (n : Ticks) :
    (s.arm id n).armed k = if k = id then n != 0 else s.armed k := by
  by_cases hk : k = id
  · rw [if_pos hk, hk]
    by_cases hn : n = 0
    · have : s.arm id n = s.disarm id := if_pos hn
      rw [this, State.armed_disarm_self, hn]
      rfl
    · unfold State.armed
      rw [State.deadlineOf_arm_self s id hn]
      exact (bne_iff_ne.mpr hn).symm
  · rw [if_neg hk]
    unfold State.armed
    rw [State.deadlineOf_arm s n hk]

/-- One list entry per owner and kind (R72). -/
abbrev State.IdsNodup (s : State) : Prop := (s.deadlines.map (·.id)).Nodup

theorem State.IdsNodup.disarm (h : s.IdsNodup) (id : DeadlineId) : (s.disarm id).IdsNodup :=
  h.sublist (List.filter_sublist.map _)

theorem State.IdsNodup.arm (h : s.IdsNodup) (id : DeadlineId) (n : Ticks) :
    (s.arm id n).IdsNodup := by
  unfold State.arm
  split
  · exact h.disarm id
  · refine ((insertDeadline_perm _ _ _).map _).nodup_iff.mpr (List.nodup_cons.mpr ⟨?_, h.disarm id⟩)
    rw [List.mem_map]
    rintro ⟨d, hd, e⟩
    exact (mem_withoutDeadline.mp hd).2 e

/-- With one entry per owner, taking the head off the list disarms it. -/
theorem State.setDeadlines_rest (h : s.IdsNodup) {d : Deadline} {rest : List Deadline}
    (hd : s.deadlines = d :: rest) : s.setDeadlines rest = s.disarm d.id := by
  have hnot : d.id ∉ rest.map (·.id) := by
    unfold State.IdsNodup at h
    rw [hd] at h
    exact (List.nodup_cons.mp h).1
  have hrest : withoutDeadline d.id s.deadlines = rest := by
    unfold withoutDeadline
    rw [hd, List.filter_cons_of_neg (by simp), List.filter_eq_self]
    exact fun e he => bne_iff_ne.mpr fun hid => hnot (List.mem_map.mpr ⟨e, he, hid⟩)
  unfold State.disarm
  rw [hrest]

/-! Owners -/

/-- Nothing that owns a deadline differs: leases, entries, sessions, resource deadline fields. -/
structure SameOwners (s t : State) : Prop where
  holds : ∀ r c, t.holds r c = s.holds r c
  field : ∀ r, (t.record r).deadline = (s.record r).deadline
  waits : ∀ i, (t.entry i).isSome = (s.entry i).isSome
  port : ∀ c, (t.session c).port = (s.session c).port
  ttl : ∀ c, (t.session c).ttl = (s.session c).ttl

theorem SameOwners.owns (h : SameOwners s t) (id : DeadlineId) : t.owns id = s.owns id := by
  cases id with
  | hold r c => exact h.holds r c
  | wait i => exact h.waits i
  | session c => simp only [State.owns, State.attached, h.port, h.ttl]
  | grace r => simp only [State.owns, h.field]
  | guard r => simp only [State.owns, h.field]

/-- What a deadline's owner is made of, for one deadline. -/
theorem State.owns_congr {k : DeadlineId} (holds : ∀ r c, k = .hold r c → t.holds r c = s.holds r c)
    (waits : ∀ i, k = .wait i → (t.entry i).isSome = (s.entry i).isSome)
    (field : ∀ r, (t.record r).deadline = (s.record r).deadline)
    (sessions : ∀ c, s.sameSession t c) : t.owns k = s.owns k := by
  cases k with
  | hold r c => exact holds r c rfl
  | wait i => exact waits i rfl
  | session c => simp only [State.owns, State.attached, (sessions c).1, (sessions c).2.2.1]
  | grace r => simp only [State.owns, field]
  | guard r => simp only [State.owns, field]

theorem LeaseFrame.owners (f : LeaseFrame s t) (e : SameLeases s t) : SameOwners s t :=
  ⟨e.holds, fun r => by rw [e.record], fun i => by rw [e.entry], fun c => (f.sessions c).1,
    fun c => (f.sessions c).2.2.1⟩

theorem State.owns_disarm (s : State) (id k : DeadlineId) : (s.disarm id).owns k = s.owns k := by
  cases k <;> rfl

theorem State.owns_arm (s : State) (id k : DeadlineId) (n : Ticks) :
    (s.arm id n).owns k = s.owns k := by
  rw [State.arm_eq]
  cases k <;> rfl

/-- A deadline that its owner must keep armed; leases and waits may be without limit. -/
def DeadlineId.watched : DeadlineId → Bool
  | .hold _ _ => false
  | .wait _ => false
  | .session _ => true
  | .grace _ => true
  | .guard _ => true

/-- The deadline and its owner agree; the spared one is not armed, whatever its owner. -/
def State.tends (s : State) (x : Option DeadlineId) (id : DeadlineId) : Prop :=
  (s.armed id = true → s.owns id = true ∧ x ≠ some id)
    ∧ (id.watched = true → s.owns id = true → x ≠ some id → s.armed id = true)

/-- Every deadline but a spared one agrees with its owner. -/
structure State.Owned (s : State) (x : Option DeadlineId) : Prop where
  ids : s.IdsNodup
  spared : ∀ id ∈ x, id.watched = true
  owners : ∀ id, s.tends x id

theorem State.ownersWf_iff (h : s.IdsNodup) : s.OwnersWf ↔ s.Owned none := by
  constructor
  · rintro ⟨hlive, hsession, hresource⟩
    refine ⟨h, nofun, fun id => ⟨fun ha => ?_, fun hw ho _ => ?_⟩⟩
    · obtain ⟨d, hd, e⟩ := State.armed_iff_mem.mp ha
      exact ⟨e ▸ hlive d hd, nofun⟩
    · cases id with
      | hold r c => cases hw
      | wait i => cases hw
      | session c => exact hsession c ho
      | grace r => exact (hresource r).1 ho
      | guard r => exact (hresource r).2 ho
  · intro ho
    have live : ∀ id, id.watched = true → s.owns id = true → s.armed id = true := fun id hw h' =>
      (ho.owners id).2 hw h' nofun
    exact ⟨fun d hd => ((ho.owners d.id).1 (State.armed_iff_mem.mpr ⟨d, hd, rfl⟩)).1,
      fun c => live _ rfl, fun r => ⟨live _ rfl, live _ rfl⟩⟩

/-- Neither armed nor owned. -/
theorem State.tends_of_gone {x : Option DeadlineId} {id : DeadlineId} (ha : s.armed id = false)
    (ho : s.owns id = false) : s.tends x id :=
  ⟨fun h => absurd (ha.symm.trans h) nofun, fun _ h => absurd (ho.symm.trans h) nofun⟩

/-- Armed and owned. -/
theorem State.tends_of_live {x : Option DeadlineId} {id : DeadlineId} (ha : s.armed id = true)
    (ho : s.owns id = true) (hx : x ≠ some id) : s.tends x id :=
  ⟨fun _ => ⟨ho, hx⟩, fun _ _ _ => ha⟩

/-- Owned, of a kind that need not be armed. -/
theorem State.tends_of_unwatched {x : Option DeadlineId} {id : DeadlineId}
    (hw : id.watched = false) (ho : s.owns id = true) (hx : x ≠ some id) : s.tends x id :=
  ⟨fun _ => ⟨ho, hx⟩, fun h => absurd (hw.symm.trans h) nofun⟩

theorem State.Owned.ne_of_unwatched {x : Option DeadlineId} (h : s.Owned x) {id : DeadlineId}
    (hw : id.watched = false) : x ≠ some id := fun e =>
  absurd (hw.symm.trans (h.spared id e)) nofun

/-- A change that touches the deadlines of the list alone, and leaves each of them in agreement. -/
theorem State.Owned.change {x y : Option DeadlineId} (h : s.Owned x) (ids : List DeadlineId)
    (hn : t.IdsNodup) (hy : ∀ id ∈ y, id.watched = true)
    (armed : ∀ id, id ∉ ids → t.armed id = s.armed id)
    (owns : ∀ id, id ∉ ids → t.owns id = s.owns id)
    (same : ∀ id, id ∉ ids → (x = some id ↔ y = some id))
    (changed : ∀ id ∈ ids, t.tends y id) : t.Owned y := by
  refine ⟨hn, hy, fun id => ?_⟩
  by_cases hid : id ∈ ids
  · exact changed id hid
  · unfold State.tends
    rw [armed id hid, owns id hid, ne_eq, ← same id hid]
    exact h.owners id

theorem State.Owned.congr {x : Option DeadlineId} (h : s.Owned x)
    (hd : t.deadlines = s.deadlines) (ho : SameOwners s t) : t.Owned x := by
  refine h.change [] ?_ h.spared (fun id _ => State.armed_congr hd id) (fun id _ => ho.owns id)
    (fun _ _ => Iff.rfl) nofun
  unfold State.IdsNodup
  rw [hd]
  exact h.ids

/-- An owner that is gone takes its deadline along. -/
theorem State.Owned.lose {x : Option DeadlineId} (h : s.Owned x) (id : DeadlineId)
    (hd : t.deadlines = (s.disarm id).deadlines) (owns : ∀ k, k ≠ id → t.owns k = s.owns k)
    (gone : t.owns id = false) : t.Owned x := by
  have armed : ∀ k, t.armed k = if k = id then false else s.armed k := fun k =>
    (State.armed_congr hd k).trans (s.armed_disarm id k)
  refine h.change [id] ?_ h.spared (fun k hk => ?_) (fun k hk => owns k (by simpa using hk))
    (fun _ _ => Iff.rfl) fun k hk => ?_
  · unfold State.IdsNodup
    rw [hd]
    exact h.ids.disarm id
  · rw [armed, if_neg (by simpa using hk)]
  · rw [List.mem_singleton.mp hk]
    exact State.tends_of_gone (by rw [armed, if_pos rfl]) gone

/-- An owner that stands arms its deadline, or disarms it where it need not have one. -/
theorem State.Owned.hold {x : Option DeadlineId} (h : s.Owned x) (id : DeadlineId) (n : Ticks)
    (hd : t.deadlines = (s.arm id n).deadlines) (owns : ∀ k, k ≠ id → t.owns k = s.owns k)
    (live : t.owns id = true) (hx : x ≠ some id) (hn : id.watched = true → n ≠ 0) :
    t.Owned x := by
  have armed : ∀ k, t.armed k = if k = id then n != 0 else s.armed k := fun k =>
    (State.armed_congr hd k).trans (s.armed_arm id k n)
  refine h.change [id] ?_ h.spared (fun k hk => ?_) (fun k hk => owns k (by simpa using hk))
    (fun _ _ => Iff.rfl) fun k hk => ?_
  · unfold State.IdsNodup
    rw [hd]
    exact h.ids.arm id n
  · rw [armed, if_neg (by simpa using hk)]
  · rw [List.mem_singleton.mp hk]
    refine ⟨fun _ => ⟨live, hx⟩, fun hw _ _ => ?_⟩
    rw [armed, if_pos rfl]
    exact bne_iff_ne.mpr (hn hw)

/-- A deadline that has left the list: spared while its delivery goes on. -/
theorem State.Owned.disarm (h : s.Owned none) {id : DeadlineId} (hw : id.watched = true) :
    (s.disarm id).Owned (some id) := by
  refine h.change [id] (h.ids.disarm id) (fun k hk => Option.mem_some_iff.mp hk ▸ hw)
    (fun k hk => ?_) (fun k _ => ?_) (fun k hk => ?_) fun k hk => ?_
  · rw [State.armed_disarm, if_neg (by simpa using hk)]
  · exact s.owns_disarm id k
  · simpa [eq_comm] using hk
  · rw [List.mem_singleton.mp hk]
    exact ⟨fun ha => absurd ((s.armed_disarm_self id).symm.trans ha) nofun,
      fun _ _ hne => absurd rfl hne⟩

theorem State.Owned.disarm_unwatched (h : s.Owned none) {id : DeadlineId}
    (hw : id.watched = false) : (s.disarm id).Owned none := by
  refine h.change [id] (h.ids.disarm id) nofun (fun k hk => ?_) (fun k _ => ?_)
    (fun _ _ => Iff.rfl) fun k hk => ?_
  · rw [State.armed_disarm, if_neg (by simpa using hk)]
  · exact s.owns_disarm id k
  · rw [List.mem_singleton.mp hk]
    exact ⟨fun ha => absurd ((s.armed_disarm_self id).symm.trans ha) nofun,
      fun h' => absurd (hw.symm.trans h') nofun⟩

/-- The spared deadline is not armed. -/
theorem State.Owned.not_armed {id : DeadlineId} (h : s.Owned (some id)) : s.armed id = false := by
  cases ha : s.armed id with
  | false => rfl
  | true => exact absurd rfl ((h.owners id).1 ha).2

/-- Once the owner is gone too, nothing is spared. -/
theorem State.Owned.settle {id : DeadlineId} (h : s.Owned (some id))
    (hd : t.deadlines = s.deadlines) (owns : ∀ k, k ≠ id → t.owns k = s.owns k)
    (gone : t.owns id = false) : t.Owned none := by
  refine h.change [id] ?_ nofun (fun k _ => State.armed_congr hd k)
    (fun k hk => owns k (by simpa using hk)) (fun k hk => ?_) fun k hk => ?_
  · unfold State.IdsNodup
    rw [hd]
    exact h.ids
  · simpa [eq_comm] using hk
  · rw [List.mem_singleton.mp hk]
    exact State.tends_of_gone ((State.armed_congr hd id).trans h.not_armed) gone

/-! What a record's update does to the owners -/

theorem State.holds_setRecord (s : State) (r : Res) (x : Record) (k : Res) (c : Client) :
    (s.setRecord r x).holds k c = if k = r then (x.lease c).isSome else s.holds k c := by
  unfold State.holds
  rw [State.record_setRecord]
  split <;> rfl

theorem State.field_setRecord (s : State) (r : Res) (x : Record) (k : Res) :
    ((s.setRecord r x).record k).deadline
      = if k = r then x.deadline else (s.record k).deadline := by
  rw [State.record_setRecord]
  split <;> rfl

/-- A record with the same slots and the same resource deadline owns the same. -/
theorem State.setRecord_owners {r : Res} {x : Record}
    (hl : ∀ c, (x.lease c).isSome = s.holds r c) (hd : x.deadline = (s.record r).deadline) :
    SameOwners s (s.setRecord r x) := by
  refine ⟨fun k c => ?_, fun k => ?_, fun _ => rfl, fun _ => rfl, fun _ => rfl⟩
  · rw [State.holds_setRecord]
    split
    · rename_i hk
      rw [hl c, hk]
    · rfl
  · rw [State.field_setRecord]
    split
    · rename_i hk
      rw [hd, hk]
    · rfl

theorem State.Owned.setRecord {x : Option DeadlineId} (h : s.Owned x) {r : Res} {y : Record}
    (hl : ∀ c, (y.lease c).isSome = s.holds r c) (hd : y.deadline = (s.record r).deadline) :
    (s.setRecord r y).Owned x := h.congr rfl (State.setRecord_owners hl hd)

/-- An update of a record that keeps its slots can change the owners of its resource deadlines
alone. -/
theorem State.owns_setRecord {r : Res} {z : Record} {k : DeadlineId}
    (hl : ∀ c, (z.lease c).isSome = s.holds r c) (hgrace : k ≠ .grace r) (hguard : k ≠ .guard r) :
    (s.setRecord r z).owns k = s.owns k := by
  cases k with
  | hold k c =>
    show (s.setRecord r z).holds k c = s.holds k c
    rw [State.holds_setRecord]
    split
    · rename_i hk
      rw [hl c, hk]
    · rfl
  | wait i => rfl
  | session c => rfl
  | grace k =>
    have hk : k ≠ r := fun e => hgrace (by rw [e])
    simp only [State.owns, State.field_setRecord, if_neg hk]
  | guard k =>
    have hk : k ≠ r := fun e => hguard (by rw [e])
    simp only [State.owns, State.field_setRecord, if_neg hk]

theorem State.owns_grace_setRecord (s : State) (r : Res) (z : Record) :
    (s.setRecord r z).owns (.grace r) = (z.deadline == .grace) := by
  simp only [State.owns, State.field_setRecord, if_true]

theorem State.owns_guard_setRecord (s : State) (r : Res) (z : Record) :
    (s.setRecord r z).owns (.guard r) = (z.deadline == .guard) := by
  simp only [State.owns, State.field_setRecord, if_true]

theorem State.setRecord_setRecord (s : State) (r : Res) (x z : Record) :
    (s.setRecord r x).setRecord r z = s.setRecord r z := by
  unfold State.setRecord
  rw [Vec.set_set]

/-! Operations that touch no deadline -/

theorem State.report_owned {x : Option DeadlineId} (h : s.Owned x) (r : Res) (c : Client) :
    (s.report r c).Owned x :=
  h.congr rfl ((s.report_frame r c).owners (s.report_sameLeases r c))

theorem State.notify_owned {x : Option DeadlineId} (h : s.Owned x) (c : Client) (r : Res)
    (w : ResourceWord) : (s.notify c r w).Owned x :=
  h.congr rfl ((s.notify_frame c r w).owners (s.notify_sameLeases c r w))

theorem State.raise_owned {x : Option DeadlineId} (h : s.Owned x) (e : EventSource) :
    (s.raise e).Owned x :=
  h.congr rfl ((s.raise_frame e).owners (s.raise_sameLeases e))

theorem State.setNoticeQueue_owned {x : Option DeadlineId} (h : s.Owned x) (c : Client)
    (q : NoticeQueue) : (s.setNoticeQueue c q).Owned x :=
  h.congr rfl ⟨fun _ _ => rfl, fun _ => rfl, fun _ => rfl, fun _ => rfl, fun _ => rfl⟩

theorem State.reportRemoved_owned {x : Option DeadlineId} (h : s.Owned x) (c : Client)
    (n : Notice) : (s.reportRemoved c n).Owned x := by
  cases n with
  | resource r w k => exact State.report_owned h r c
  | sessionLapsed k => exact h
  | sessionEvicted k => exact h

theorem State.discardNotices_owned {x : Option DeadlineId} (h : s.Owned x) (c : Client) :
    (s.discardNotices c).Owned x :=
  List.foldlRecOn (motive := fun u : State => u.Owned x) _ _ (State.setNoticeQueue_owned h c _)
    fun _ hu n _ => State.reportRemoved_owned hu c n

theorem State.warnHolder_owned {x : Option DeadlineId} (h : s.Owned x) (r : Res) (c : Client) :
    (State.warnHolder r s c).Owned x := by
  unfold State.warnHolder
  split
  · exact State.notify_owned h _ _ _
  · exact h

/-! Entries -/

theorem State.removeEntry_owned {x : Option DeadlineId} (h : s.Owned x) (i : PoolIx) :
    (s.removeEntry i).Owned x := by
  cases he : s.entry i with
  | none =>
    have : s.removeEntry i = s := by unfold State.removeEntry; rw [he]
    rwa [this]
  | some e =>
    have hd : (s.removeEntry i).deadlines = (s.disarm (.wait i)).deadlines := by
      unfold State.removeEntry
      rw [he]
      rfl
    refine h.lose (.wait i) hd (fun k hk => State.owns_congr (fun r c _ => ?_) (fun j hj => ?_)
      (fun r => by rw [State.record_removeEntry]) (s.removeEntry_frame i).sessions) ?_
    · unfold State.holds
      rw [State.record_removeEntry]
    · rw [State.entry_removeEntry, if_neg fun e' : j = i => hk (e' ▸ hj)]
    · simp [State.owns, State.entry_removeEntry]

theorem State.cancelEntry_owned {x : Option DeadlineId} (h : s.Owned x) (i : PoolIx) :
    (s.cancelEntry i).Owned x := by
  unfold State.cancelEntry
  split
  · exact State.removeEntry_owned (State.notify_owned h _ _ _) i
  · exact h

theorem State.cancelQueue_owned {x : Option DeadlineId} (h : s.Owned x) (r : Res) :
    (s.cancelQueue r).Owned x :=
  List.foldlRecOn (motive := fun u : State => u.Owned x) _ _ h
    fun _ hu i _ => State.cancelEntry_owned hu i

theorem State.cancelUpgrade_owned {x : Option DeadlineId} (h : s.Owned x) (r : Res) :
    (s.cancelUpgrade r).Owned x := by
  unfold State.cancelUpgrade
  split
  · exact State.cancelEntry_owned h _
  · exact h

theorem State.removeUpgrade_owned {x : Option DeadlineId} (h : s.Owned x) (r : Res)
    (c : Client) : (s.removeUpgrade r c).Owned x := by
  unfold State.removeUpgrade
  split
  · exact State.removeEntry_owned h _
  · exact h

/-- A new entry owns its WAIT deadline, which a wait without limit does not arm. -/
theorem State.allocate_owned (h : s.Owned none) (i : PoolIx) (e : WaitEntry) (q : List PoolIx)
    (wait : Ticks) : (s.allocate i e q wait).Owned none := by
  have owns : ∀ k, k ≠ .wait i → (s.allocate i e q wait).owns k = s.owns k := by
    refine fun k hk => State.owns_congr (fun r c _ => ?_) (fun j hj => ?_)
      (fun r => by rw [State.record_allocate]) (s.allocate_frame i e q wait).sessions
    · unfold State.holds
      rw [State.record_allocate]
    · rw [State.entry_allocate, if_neg fun e' : j = i => hk (e' ▸ hj)]
  have live : (s.allocate i e q wait).owns (.wait i) = true := by
    simp [State.owns, State.entry_allocate]
  by_cases hw : wait = waitForever
  · have hd : (s.allocate i e q wait).deadlines = s.deadlines := by
      unfold State.allocate State.armWait
      rw [if_pos hw]
      rfl
    refine h.change [.wait i] ?_ nofun (fun k _ => State.armed_congr hd k)
      (fun k hk => owns k (by simpa using hk)) (fun _ _ => Iff.rfl) fun k hk => ?_
    · unfold State.IdsNodup
      rw [hd]
      exact h.ids
    · rw [List.mem_singleton.mp hk]
      exact State.tends_of_unwatched rfl live nofun
  · refine h.hold (.wait i) wait ?_ owns live nofun nofun
    unfold State.allocate State.armWait
    rw [if_neg hw]
    show (State.arm _ _ wait).deadlines = _
    rw [State.arm_eq, State.arm_eq]
    rfl

/-! Grants and the release path -/

theorem State.deadlines_takeToken (s : State) : s.takeToken.deadlines = s.deadlines := by
  unfold State.takeToken
  dsimp only
  split <;> rfl

theorem State.clock_takeToken (s : State) : s.takeToken.clock = s.clock := by
  unfold State.takeToken
  dsimp only
  split <;> rfl

theorem State.deadlines_grant (s : State) (r : Res) (c : Client) (m : Mode) (hold : Ticks) :
    (s.grant r c m hold).deadlines
      = (s.arm (.hold r c) (effectiveHold (s.record r).attrs hold)).deadlines := by
  unfold State.grant
  show (State.arm _ _ _).deadlines = _
  rw [State.arm_eq, State.arm_eq, State.deadlines_takeToken, State.clock_takeToken]
  rfl

theorem Record.isSome_lease_granted (x : Record) (c k : Client) (l : Lease) (m : Mode) :
    ((x.granted c l m).lease k).isSome = if k = c then true else (x.lease k).isSome := by
  show ((x.setLease c (some l)).lease k).isSome = _
  rw [Record.lease_setLease]
  split <;> rfl

theorem State.holds_grant (s : State) (r : Res) (c : Client) (m : Mode) (hold : Ticks) (k : Res)
    (d : Client) :
    (s.grant r c m hold).holds k d = if k = r ∧ d = c then true else s.holds k d := by
  unfold State.holds
  rw [State.record_grant]
  by_cases hk : k = r
  · rw [if_pos hk, Record.isSome_lease_granted, hk]
    simp only [true_and]
  · rw [if_neg hk, if_neg fun h => hk h.1]

theorem State.field_grant (s : State) (r : Res) (c : Client) (m : Mode) (hold : Ticks) (k : Res) :
    ((s.grant r c m hold).record k).deadline = (s.record k).deadline := by
  rw [State.record_grant]
  split
  · rename_i hk
    rw [hk]
    rfl
  · rfl

/-- A grant arms or disarms the HOLD deadline of the lease that it makes (R23). -/
theorem State.grant_owned {x : Option DeadlineId} (h : s.Owned x) (r : Res) (c : Client)
    (m : Mode) (hold : Ticks) : (s.grant r c m hold).Owned x := by
  refine h.hold (.hold r c) _ (s.deadlines_grant r c m hold)
    (fun k hk => State.owns_congr (fun k' d hk' => ?_) (fun j _ => by rw [State.grant_entry])
      (s.field_grant r c m hold) (s.grant_frame r c m hold).sessions) ?_
    (h.ne_of_unwatched rfl) nofun
  · rw [State.holds_grant, if_neg fun ⟨e, e'⟩ => hk (by rw [hk', e, e'])]
  · show (s.grant r c m hold).holds r c = true
    rw [State.holds_grant, if_pos ⟨rfl, rfl⟩]

theorem State.grantRule_owned {x : Option DeadlineId} (h : s.Owned x) (r : Res) :
    (s.grantRule r).Owned x := by
  unfold State.grantRule
  split
  · exact State.grantHeads_keeps (P := fun u : State => u.Owned x)
      (fun _ i e _ _ _ hu =>
        State.notify_owned (State.grant_owned (State.removeEntry_owned hu i) r _ _ _) _ _ _) _ h
  · exact h

theorem State.vacate_frame (s : State) (r : Res) (c : Client) : LeaseFrame s (s.vacate r c) :=
  ((s.setRecord_frame r _).trans (State.disarm_frame _ _)).trans (State.report_frame _ r c)

theorem State.holds_vacate (s : State) (r : Res) (c : Client) (k : Res) (d : Client) :
    (s.vacate r c).holds k d = if k = r ∧ d = c then false else s.holds k d := by
  unfold State.holds
  rw [State.record_vacate]
  by_cases hk : k = r
  · rw [if_pos hk, Record.lease_setLease, hk]
    by_cases hd : d = c
    · simp [hd]
    · simp [hd]
  · rw [if_neg hk, if_neg fun h => hk h.1]

theorem State.field_vacate (s : State) (r : Res) (c : Client) (k : Res) :
    ((s.vacate r c).record k).deadline = (s.record k).deadline := by
  rw [State.record_vacate]
  split
  · rename_i hk
    rw [hk]
    rfl
  · rfl

/-- An emptied slot takes its HOLD deadline along (R33). -/
theorem State.vacate_owned {x : Option DeadlineId} (h : s.Owned x) (r : Res) (c : Client) :
    (s.vacate r c).Owned x := by
  refine h.lose (.hold r c) rfl
    (fun k hk => State.owns_congr (fun k' d hk' => ?_) (fun j _ => by rw [State.entry_vacate])
      (s.field_vacate r c) (s.vacate_frame r c).sessions) ?_
  · rw [State.holds_vacate, if_neg fun ⟨e, e'⟩ => hk (by rw [hk', e, e'])]
  · show (s.vacate r c).holds r c = false
    rw [State.holds_vacate, if_pos ⟨rfl, rfl⟩]

/-! What follows the last holder -/

/-- An empty record's slots say nothing of its holders. -/
theorem State.holds_of_no_holders {r : Res} (h : (s.record r).holders = []) (c : Client) :
    s.holds r c = false := by
  cases hc : s.holds r c with
  | false => rfl
  | true =>
    have : c ∈ (s.record r).holders := mem_holders.mpr hc
    rw [h] at this
    cases this

/-- The record that R34 writes once the GRACE deadline is gone: its old resource deadline goes too,
and with it what was spared of it. -/
theorem State.Owned.leaveGrace {x y : Option DeadlineId} (h : s.Owned x) {r : Res} {z : Record}
    (hy : ∀ id ∈ y, id.watched = true) (same : ∀ id, id ≠ .grace r → (x = some id ↔ y = some id))
    (hl : ∀ c, (z.lease c).isSome = s.holds r c)
    (hguard : (s.record r).deadline ≠ .guard) (hz : z.deadline = .absent) :
    ((s.disarm (.grace r)).setRecord r z).Owned y := by
  have armed : ∀ k, ((s.disarm (.grace r)).setRecord r z).armed k
      = if k = .grace r then false else s.armed k := fun k =>
    (State.armed_congr rfl k).trans (s.armed_disarm (.grace r) k)
  refine h.change [.grace r] (h.ids.disarm (.grace r)) hy (fun k hk => ?_) (fun k hk => ?_)
    (fun k hk => same k (by simpa using hk)) fun k hk => ?_
  · rw [armed, if_neg (by simpa using hk)]
  · rw [← s.owns_disarm (.grace r) k]
    by_cases hkg : k = .guard r
    · rw [hkg, State.owns_guard_setRecord, hz]
      exact (beq_eq_false_iff_ne.mpr hguard).symm
    · exact State.owns_setRecord hl (by simpa using hk) hkg
  · rw [List.mem_singleton.mp hk]
    refine State.tends_of_gone (by rw [armed, if_pos rfl]) ?_
    rw [State.owns_grace_setRecord, hz]
    rfl

/-- A record that enters DRAINING arms its GUARD deadline (R34). -/
theorem State.Owned.drain {x : Option DeadlineId} (h : s.Owned x) {r : Res} {z : Record} {n : Ticks}
    (hn : n ≠ 0) (hx : x ≠ some (.guard r)) (hl : ∀ c, (z.lease c).isSome = s.holds r c)
    (habsent : (s.record r).deadline = .absent) (hz : z.deadline = .guard) :
    ((s.setRecord r z).arm (.guard r) n).Owned x := by
  refine h.hold (.guard r) n ?_ (fun k hk => ?_) ?_ hx fun _ => hn
  · rw [State.arm_eq, State.arm_eq]
    rfl
  · rw [State.owns_arm]
    by_cases hkg : k = .grace r
    · rw [hkg, State.owns_grace_setRecord, hz]
      simp [State.owns, habsent]
    · exact State.owns_setRecord hl hkg hk
  · rw [State.owns_arm, State.owns_guard_setRecord, hz]
    rfl

/-- A record that enters REVOKING arms its GRACE deadline (R87). -/
theorem State.Owned.revoke {x : Option DeadlineId} (h : s.Owned x) {r : Res} {z : Record}
    {n : Ticks}
    (hn : n ≠ 0) (hx : x ≠ some (.grace r)) (hl : ∀ c, (z.lease c).isSome = s.holds r c)
    (habsent : (s.record r).deadline = .absent) (hz : z.deadline = .grace) :
    ((s.setRecord r z).arm (.grace r) n).Owned x := by
  refine h.hold (.grace r) n ?_ (fun k hk => ?_) ?_ hx fun _ => hn
  · rw [State.arm_eq, State.arm_eq]
    rfl
  · rw [State.owns_arm]
    by_cases hkg : k = .guard r
    · rw [hkg, State.owns_guard_setRecord, hz]
      simp [State.owns, habsent]
    · exact State.owns_setRecord hl hk hkg
  · rw [State.owns_arm, State.owns_grace_setRecord, hz]
    rfl

/-- What follows the last holder: the GRACE deadline is gone with REVOKING, and a GUARD deadline
comes with DRAINING (R34). -/
theorem State.Owned.lastHolderLeft {x y : Option DeadlineId} (h : s.Owned x) {r : Res}
    (hy : ∀ id ∈ y, id.watched = true) (same : ∀ id, id ≠ .grace r → (x = some id ↔ y = some id))
    (hx : y ≠ some (.guard r)) (hh : (s.record r).holders = [])
    (hgrace : (s.record r).deadline = .grace → (s.record r).state = .revoking)
    (hguard : (s.record r).deadline ≠ .guard) : (s.lastHolderLeft r).Owned y := by
  have disarmed : (if (s.record r).state = .revoking then s.disarm (.grace r) else s)
      = s.disarm (.grace r) := by
    split
    · rfl
    · rename_i hs
      refine (State.disarm_of_not_armed ?_).symm
      cases ha : s.armed (.grace r) with
      | false => rfl
      | true => exact absurd (hgrace (eq_of_beq ((h.owners (.grace r)).1 ha).1)) hs
  have left : ∀ z : Record, z.slots = (s.record r).slots → z.deadline = .absent →
      ((s.disarm (.grace r)).setRecord r z).Owned y := fun z hz hd =>
    h.leaveGrace hy same (fun c => by unfold State.holds Record.lease; rw [hz]) hguard hd
  unfold State.lastHolderLeft
  dsimp only
  rw [disarmed]
  split
  · rename_i hn
    have hd := (left { s.record r with deadline := .absent } rfl rfl).drain
      (z := { s.record r with state := .draining, heldMode := none, deadline := .guard })
      hn hx (fun c => ?_) ?_ rfl
    · rwa [State.setRecord_setRecord] at hd
    · rw [State.holds_setRecord, if_pos rfl]
      rfl
    · rw [State.field_setRecord, if_pos rfl]
  · split
    · refine h.leaveGrace hy same (fun c => ?_) hguard rfl
      rw [State.holds_of_no_holders hh, Record.cleared_lease]
      rfl
    · have idle := left
        { s.record r with state := .idle, heldMode := none, deadline := .absent } rfl rfl
      exact State.grantRule_owned idle r

/-- The last lease's slot emptied, and what follows (R33, R34). -/
theorem State.Owned.leaveLast {x y : Option DeadlineId} (h : s.Owned x) {r : Res} {c : Client}
    (hw : (s.record r).Wf) (hc : s.holds r c = true) (hy : ∀ id ∈ y, id.watched = true)
    (same : ∀ id, id ≠ .grace r → (x = some id ↔ y = some id)) (hx : y ≠ some (.guard r))
    (hlast : ((s.record r).setLease c none).holders = []) :
    ((s.vacate r c).lastHolderLeft r).Owned y := by
  refine (State.vacate_owned h r c).lastHolderLeft hy same hx ?_ ?_ ?_
  · rw [State.record_vacate_self]
    exact hlast
  · rw [State.record_vacate_self]
    exact hw.2.1.mp
  · rw [State.record_vacate_self]
    intro hd
    have hs : (s.record r).state = .draining := hw.2.2.1.mp hd
    rcases hw.state_of_holder (mem_holders.mpr hc) with e | e <;> rw [hs] at e <;> cases e

/-- The release path of a lease (R33, R34). -/
theorem State.Owned.endLease {x : Option DeadlineId} (h : s.Owned x) {r : Res} {c : Client}
    (quiet : Bool) (hw : (s.record r).Wf) (hc : s.holds r c = true) (hx : x ≠ some (.guard r)) :
    (s.endLease r c quiet).Owned x := by
  by_cases hlast : ((s.record r).setLease c none).holders = []
  · rw [State.endLease_of_last quiet hlast]
    exact h.leaveLast hw hc h.spared (fun _ _ => Iff.rfl) hx hlast
  · rw [State.endLease_of_more quiet hlast]
    split
    · exact State.grantRule_owned (State.vacate_owned h r c) r
    · exact State.vacate_owned h r c

/-! Several leases at once -/

/-- What the end of several leases needs between them: the records and the deadlines together. -/
structure State.Tended (s : State) (x : Option DeadlineId) : Prop where
  records : s.RecordsWf
  owned : s.Owned x

theorem State.Tended.dropWait {x : Option DeadlineId} (h : s.Tended x) (c : Client) (r : Res) :
    (s.dropWait c r).Tended x := by
  refine ⟨h.records.dropWait c r, ?_⟩
  unfold State.dropWait
  split
  · exact State.grantRule_owned (State.removeEntry_owned h.owned _) r
  · exact h.owned

theorem State.Tended.releaseResource {x : Option DeadlineId} (h : s.Tended x)
    (hx : ∀ r, x ≠ some (.guard r)) (c : Client) (r : Res) :
    (State.releaseResource c s r).Tended x := by
  refine ⟨h.records.releaseResource c r, ?_⟩
  have hd := h.dropWait c r
  unfold State.releaseResource State.dropLease
  split
  · rename_i hc
    exact hd.owned.endLease false (hd.records r) hc (hx r)
  · exact hd.owned

theorem State.Tended.massRelease {x : Option DeadlineId} (h : s.Tended x)
    (hx : ∀ r, x ≠ some (.guard r)) (c : Client) : (s.massRelease c).Owned x :=
  State.discardNotices_owned
    (List.foldlRecOn (motive := fun u : State => u.Tended x) _ _ h
      fun _ hu r _ => hu.releaseResource hx c r).owned c

/-- A session that ends owns its deadline no more. -/
theorem State.Owned.endSession {c : Client} (h : s.Owned (some (.session c))) (ended : PortState) :
    (s.endSession c ended).Owned none := by
  refine h.settle rfl (fun k hk => ?_) ?_
  · cases k with
    | hold r d => rfl
    | wait i => rfl
    | session d =>
      have hd : d ≠ c := fun e => hk (by rw [e])
      simp only [State.owns, State.attached, State.endSession, State.session_setSession, if_neg hd]
    | grace r => rfl
    | guard r => rfl
  · simp [State.owns, State.endSession]

/-- The end of a session whose deadline is off the list (R111). -/
theorem State.Tended.endedSession {c : Client} (h : s.Tended (some (.session c))) :
    (s.massRelease c).Owned (some (.session c)) := h.massRelease (fun _ => nofun) c

theorem State.Tended.disarmSession (h : s.Tended none) (c : Client) :
    (s.disarm (.session c)).Tended (some (.session c)) :=
  ⟨(s.disarm_sameLeases _).recordsWf h.records, h.owned.disarm rfl⟩

theorem State.Tended.closeNow (h : s.Tended none) (c : Client) : (s.closeNow c).Owned none :=
  (h.disarmSession c).endedSession.endSession _

theorem State.Tended.evictNow (h : s.Tended none) (c : Client) : (s.evictNow c).Owned none :=
  (State.setNoticeQueue_owned (h.disarmSession c).endedSession c _).endSession _

theorem State.Tended.lapseNow {c : Client} (h : s.Tended (some (.session c))) :
    (s.lapseNow c).Owned none :=
  State.raise_owned ((State.setNoticeQueue_owned h.endedSession c _).endSession _) _

/-- The removal of every holder (R88, R91): a spared GRACE deadline has lost its owner at the
end. -/
theorem State.Tended.removeHolders {x : Option DeadlineId} (h : s.Tended x) {r : Res}
    (hh : (s.record r).holders ≠ []) (hx : x = none ∨ x = some (.grace r)) :
    (s.removeHolders r).Owned none := by
  have same : ∀ id, id ≠ .grace r → (x = some id ↔ none = some id) := by
    rintro id hid
    rcases hx with rfl | rfl
    · exact Iff.rfl
    · simp [eq_comm, hid]
  refine State.removeHolders_induct (I := fun u => u.Tended x) (J := fun u => u.Owned none)
    ?_ ?_ hh h
  · intro u c rest hu hrest hI
    obtain ⟨w, e, -⟩ := State.removeHolder_of_more hu hrest
    refine ⟨hI.records.removeHolder r c, ?_⟩
    rw [e]
    exact State.vacate_owned (State.notify_owned hI.owned c r w) r c
  · intro u c hu hI
    obtain ⟨w, e⟩ := State.removeHolder_of_last hu
    have hn := u.notify_sameLeases c r w
    have hc : c ∈ (u.record r).holders := by rw [hu]; exact List.mem_singleton_self c
    rw [e]
    refine (State.notify_owned hI.owned c r w).leaveLast (hn.recordsWf hI.records r) ?_ nofun same
      nofun ?_
    · rw [hn.holds]
      exact mem_holders.mp hc
    · rw [hn.record, Record.holders_setLease_none, hu, List.erase_cons_head]

/-! The deliveries -/

theorem State.Tended.holdExpired (h : s.Tended none) (r : Res) (c : Client) :
    (s.holdExpired r c).Owned none := by
  unfold State.holdExpired
  split
  · rename_i l hl
    have hn := State.removeUpgrade_owned
      (State.notify_owned h.owned c r (.leaseExpired l.token)) r c
    refine hn.endLease false ?_ ?_ nofun
    · rw [State.record_removeUpgrade]
      exact h.records r
    · unfold State.holds
      rw [State.record_removeUpgrade]
      exact Option.isSome_iff_exists.mpr ⟨l, hl⟩
  · exact h.owned

theorem State.Tended.waitExpired (h : s.Tended none) (i : PoolIx) :
    (s.waitExpired i).Owned none := by
  unfold State.waitExpired
  split
  · exact State.grantRule_owned (State.removeEntry_owned (State.notify_owned h.owned _ _ _) i) _
  · exact h.owned

/-- A GRACE deadline off the list ends the revocation it was armed for (R91). -/
theorem State.Tended.graceExpired {r : Res} (h : s.Tended (some (.grace r)))
    (hd : (s.record r).deadline = .grace) : (s.graceExpired r).Owned none := by
  have hs : (s.record r).state = .revoking := (h.records r).2.1.mp hd
  unfold State.graceExpired
  rw [if_pos hd]
  exact State.raise_owned (h.removeHolders ((h.records r).1.mpr (.inr hs)) (.inr rfl)) _

/-- A GUARD deadline off the list ends the drain it was armed for (R95). -/
theorem State.Tended.guardExpired {r : Res} (h : s.Tended (some (.guard r)))
    (hd : (s.record r).deadline = .guard) : (s.guardExpired r).Owned none := by
  have hs : (s.record r).state = .draining := (h.records r).2.2.1.mp hd
  have hh : (s.record r).holders = [] := (h.records r).holders_nil (by simp [hs]) (by simp [hs])
  have write : ∀ z : Record, (∀ c, (z.lease c).isSome = s.holds r c) → z.deadline = .absent →
      (s.setRecord r z).Owned none := by
    intro z hl hz
    refine h.owned.settle rfl (fun k hk => ?_) ?_
    · by_cases hkg : k = .grace r
      · rw [hkg, State.owns_grace_setRecord, hz]
        simp [State.owns, hd]
      · exact State.owns_setRecord hl hkg hk
    · rw [State.owns_guard_setRecord, hz]
      rfl
  unfold State.guardExpired
  dsimp only
  rw [if_pos hd]
  split
  · refine write _ (fun c => ?_) rfl
    rw [State.holds_of_no_holders hh, Record.cleared_lease]
    rfl
  · have idle := write { s.record r with state := .idle, deadline := .absent } (fun _ => rfl) rfl
    exact State.grantRule_owned idle r

/-- The delivery of an armed deadline. -/
theorem State.Tended.deliver (h : s.Tended none) {id : DeadlineId} (ha : s.armed id = true) :
    ((s.disarm id).deliver id).Tended none := by
  have hr : (s.disarm id).RecordsWf := (s.disarm_sameLeases id).recordsWf h.records
  refine ⟨hr.deliver id, ?_⟩
  have ho : s.owns id = true := ((h.owned.owners id).1 ha).1
  have plain : id.watched = false → (s.disarm id).Tended none := fun hw =>
    ⟨hr, h.owned.disarm_unwatched hw⟩
  have spared : id.watched = true → (s.disarm id).Tended (some id) := fun hw =>
    ⟨hr, h.owned.disarm hw⟩
  cases id with
  | hold r c => exact (plain rfl).holdExpired r c
  | wait i => exact (plain rfl).waitExpired i
  | session c =>
    show ((s.disarm (.session c)).sessionExpired c).Owned none
    have hatt : (s.disarm (.session c)).attached c = true := (Bool.and_eq_true_iff.mp ho).1
    unfold State.sessionExpired
    rw [if_pos hatt]
    exact (spared rfl).lapseNow
  | grace r => exact (spared rfl).graceExpired (eq_of_beq ho)
  | guard r => exact (spared rfl).guardExpired (eq_of_beq ho)

/-! The events -/

/-- With no deadline armed and no owner that needs one, all is in agreement. -/
theorem State.owned_of_idle (hd : s.deadlines = [])
    (ho : ∀ id, id.watched = true → s.owns id = false) : s.Owned none := by
  refine ⟨?_, nofun, fun id => ⟨fun ha => ?_, fun hw h => absurd ((ho id hw).symm.trans h) nofun⟩⟩
  · unfold State.IdsNodup
    rw [hd]
    exact List.nodup_nil
  · rw [State.armed_iff_mem, hd] at ha
    obtain ⟨d, hmem, -⟩ := ha
    cases hmem

theorem SameCore.owners (h : SameCore s t) : SameOwners s t :=
  ⟨h.leases.holds, fun r => by rw [h.leases.record], fun i => by rw [h.leases.entry],
    fun c => by unfold State.session; rw [h.sessions],
    fun c => by unfold State.session; rw [h.sessions]⟩

theorem State.reset_owned : State.reset.Owned none := by
  refine State.owned_of_idle rfl fun id hw => ?_
  cases id with
  | hold r c => cases hw
  | wait i => cases hw
  | session c => simp [State.owns, State.attached, Session.reset]
  | grace r => simp [State.owns, Record.cleared]
  | guard r => simp [State.owns, Record.cleared]

/-- After CLEAR ALL no record carries a resource deadline. -/
theorem Record.atRest_deadline (x : Record) : x.atRest.deadline = .absent := by
  unfold Record.atRest
  split <;> rfl

theorem State.clearAllNow_owned (s : State) : s.clearAllNow.Owned none := by
  have field : ∀ r, (s.clearAllNow.record r).deadline = .absent := by
    intro r
    have : s.clearAllNow.record r = (s.record r).atRest := Vec.get_map _ _ r
    rw [this, Record.atRest_deadline]
  refine State.owned_of_idle rfl fun id hw => ?_
  cases id with
  | hold r c => cases hw
  | wait i => cases hw
  | session c =>
    have : s.clearAllNow.session c = (s.session c).atRest := Vec.get_map _ _ c
    simp [State.owns, State.attached, this, Session.atRest]
  | grace r => simp [State.owns, field]
  | guard r => simp [State.owns, field]

/-- A session update that keeps port state and TTL. -/
theorem State.setSession_owned {x : Option DeadlineId} (h : s.Owned x) {c : Client} {y : Session}
    (hp : y.port = (s.session c).port) (ht : y.ttl = (s.session c).ttl) :
    (s.setSession c y).Owned x := by
  refine h.congr rfl ⟨fun _ _ => rfl, fun _ => rfl, fun _ => rfl, fun d => ?_, fun d => ?_⟩
  · rw [State.session_setSession]
    split
    · rename_i hd
      rw [hp, hd]
    · rfl
  · rw [State.session_setSession]
    split
    · rename_i hd
      rw [ht, hd]
    · rfl

/-- Re-arming a deadline whose owner stands. -/
theorem State.Owned.rearm {x : Option DeadlineId} (h : s.Owned x) {id : DeadlineId} {n : Ticks}
    (ho : s.owns id = true) (hx : x ≠ some id) (hn : id.watched = true → n ≠ 0) :
    (s.arm id n).Owned x :=
  h.hold id n rfl (fun k _ => s.owns_arm id k n) ((s.owns_arm id id n).trans ho) hx hn

theorem State.Owned.keepSession (h : s.Owned none) (c : Client) : (s.keepSession c).Owned none := by
  unfold State.keepSession
  split
  · rename_i hk
    obtain ⟨ha, ht⟩ := hk
    refine h.rearm ?_ nofun fun _ => ht
    show (s.attached c && (s.session c).ttl != 0) = true
    rw [ha, bne_iff_ne.mpr ht]
    rfl
  · exact h

/-- A session opened with a TTL arms its deadline; one without has none (R109). -/
theorem State.Owned.openNow (h : s.Owned none) {c : Client} (ha : s.attached c = false)
    (ttl : Ticks) : (s.openNow c ttl).Owned none := by
  have hlow : s.armed (.session c) = false := by
    cases hc : s.armed (.session c) with
    | false => rfl
    | true =>
      have ho := ((h.owners (.session c)).1 hc).1
      have : s.attached c = true := (Bool.and_eq_true_iff.mp ho).1
      exact absurd (ha.symm.trans this) nofun
  have opened : ∀ u : State, u = s.setSession c
      { s.session c with port := .attached, number := nextSession (s.session c).number, ttl } →
      (∀ k, k ≠ .session c → u.owns k = s.owns k) ∧ u.owns (.session c) = (ttl != 0) := by
    rintro u rfl
    refine ⟨fun k hk => ?_, ?_⟩
    · cases k with
      | hold r d => rfl
      | wait i => rfl
      | session d =>
        have hd : d ≠ c := fun e => hk (by rw [e])
        simp only [State.owns, State.attached, State.session_setSession, if_neg hd]
      | grace r => rfl
      | guard r => rfl
    · simp [State.owns, State.attached]
  unfold State.openNow
  dsimp only
  refine State.setNoticeQueue_owned ?_ c _
  obtain ⟨others, own⟩ := opened _ rfl
  split
  · rename_i ht
    refine h.hold (.session c) ttl ?_ (fun k hk => ?_) ?_ nofun fun _ => ht
    · rw [State.arm_eq, State.arm_eq]
      rfl
    · rw [State.owns_arm]
      exact others k hk
    · rw [State.owns_arm, own]
      exact bne_iff_ne.mpr ht
  · rename_i ht
    have hz : ttl = 0 := not_not.mp ht
    refine h.change [.session c] h.ids nofun (fun _ _ => rfl)
      (fun k hk => others k (by simpa using hk)) (fun _ _ => Iff.rfl) fun k hk => ?_
    rw [List.mem_singleton.mp hk]
    exact State.tends_of_gone hlow (by rw [own, hz]; rfl)

/-- A revocation with grace arms the GRACE deadline (R87). -/
theorem State.Tended.revokeWithGrace (h : s.Tended none) {r : Res}
    (hs : (s.record r).state = .held) (hg : (s.record r).attrs.grace ≠ 0) :
    (s.revokeWithGrace r).Owned none := by
  have warned : ∀ (l : List Client) (u : State), u.Owned none →
      (l.foldl (State.warnHolder r) u).Owned none := fun l u hu =>
    List.foldlRecOn (motive := fun v : State => v.Owned none) _ _ hu
      fun _ hv c _ => State.warnHolder_owned hv r c
  have same : ∀ (l : List Client) (u : State),
      (l.foldl (State.warnHolder r) u).record r = u.record r := fun l u =>
    (SameLeases.foldl (fun v c => v.warnHolder_sameLeases r c) l u).record r
  have habsent : (s.record r).deadline = .absent :=
    (h.records r).deadline_absent (by simp [hs]) (by simp [hs])
  unfold State.revokeWithGrace
  dsimp only
  refine (warned _ _ (State.cancelUpgrade_owned h.owned r)).revoke ?_ nofun (fun _ => rfl) ?_ rfl
  · rw [same, State.record_cancelUpgrade]
    exact hg
  · rw [same, State.record_cancelUpgrade]
    exact habsent

theorem Event.keeps_tended (s t : State) (e : Event s t) (h : s.Tended none) : t.Tended none := by
  refine ⟨e.keeps_recordsWf s t h.records, ?_⟩
  cases e with
  | outside same => exact h.owned.congr same.deadlines same.owners
  | deviceReset same => exact State.reset_owned.congr same.deadlines same.owners
  | clearAll => exact s.clearAllNow_owned
  | tick =>
    refine (State.tick_keeps (P := fun u : State => u.Tended none) (fun u t hu => ?_)
      (fun u d rest hd hu => ?_) h).owned
    · exact ⟨(u.setClock_sameLeases t).recordsWf hu.records, hu.owned.congr rfl
        ⟨fun _ _ => rfl, fun _ => rfl, fun _ => rfl, fun _ => rfl, fun _ => rfl⟩⟩
    · rw [State.setDeadlines_rest hu.owned.ids hd]
      exact hu.deliver (State.armed_iff_mem.mpr ⟨d, by simp [hd], rfl⟩)
  | expiry id armed => exact (h.deliver armed).owned
  | kept c => exact h.owned.keepSession c
  | opened c ttl checks =>
    have ha : s.attached c = false := by
      have := firstFailing_eq_none.mp checks _ List.mem_cons_self
      simpa using this
    exact h.owned.openNow ha ttl
  | closed c _ => exact h.closeNow c
  | evicted c _ => exact h.evictNow c
  | policySet c p => exact State.setSession_owned h.owned rfl rfl
  | fetched c n rest _ =>
    exact State.reportRemoved_owned (State.setNoticeQueue_owned h.owned c _) c n
  | attentionSet c m _ => exact State.setNoticeQueue_owned h.owned c _
  | claimed c r m hold _ _ _ => exact State.grant_owned h.owned r c m hold
  | claimQueued c r m hold wait i _ _ _ _ _ =>
    exact State.grantRule_owned (State.allocate_owned h.owned i _ _ wait) r
  | upgraded c r hold _ _ _ => exact State.grant_owned h.owned r c .exclusive hold
  | upgradeQueued c r hold wait i _ _ _ _ _ =>
    exact State.grantRule_owned (State.allocate_owned h.owned i _ _ wait) r
  | renewed c r hold _ holds _ => exact h.owned.rearm holds nofun nofun
  | released c r _ holds =>
    refine (State.removeUpgrade_owned h.owned r c).endLease false ?_ ?_ nofun
    · rw [State.record_removeUpgrade]
      exact h.records r
    · unfold State.holds
      rw [State.record_removeUpgrade]
      exact holds
  | downgraded c r _ _ =>
    have lowered := h.owned.setRecord (r := r)
      (y := { s.record r with heldMode := some .shared }) (fun _ => rfl) rfl
    exact State.grantRule_owned (State.report_owned lowered r c) r
  | withdrawn c r i _ _ => exact State.grantRule_owned (State.removeEntry_owned h.owned i) r
  | defined r a offline =>
    have hc : s.record r = Record.cleared := (h.records r).eq_cleared offline
    refine h.owned.setRecord (fun c => ?_) (by rw [hc]; rfl)
    unfold State.holds
    rw [hc]
    rfl
  | amended r a _ _ _ => exact h.owned.setRecord (fun _ => rfl) rfl
  | revoked r held grace => exact h.revokeWithGrace held grace
  | revokedAtOnce r held _ =>
    have hrec := s.record_cancelUpgrade r
    have hc : (s.cancelUpgrade r).Tended none :=
      ⟨h.records.congr hrec, State.cancelUpgrade_owned h.owned r⟩
    refine State.raise_owned (hc.removeHolders ?_ (.inl rfl)) _
    rw [hrec]
    exact (h.records r).1.mpr (.inl held)
  | retired r idle _ =>
    have hw := h.records r
    have hh : (s.record r).holders = [] := hw.holders_nil (by simp [idle]) (by simp [idle])
    refine (State.cancelQueue_owned h.owned r).setRecord (fun c => ?_) ?_
    · unfold State.holds
      rw [State.record_cancelQueue, Record.cleared_lease]
      exact (State.holds_of_no_holders hh c).symm
    · rw [State.record_cancelQueue, hw.deadline_absent (by simp [idle]) (by simp [idle])]
      rfl
  | retiring r _ _ _ =>
    have marked := h.owned.setRecord (r := r)
      (y := { s.record r with retirePending := true }) (fun _ => rfl) rfl
    exact State.cancelQueue_owned marked r

end

/-- Settles O57: every event keeps the records and the deadlines' owners together. -/
theorem deadlinesKeepLiveOwners : Obligations.DeadlinesKeepLiveOwners := by
  intro s t hrecords _ hdeadlines howners hstep
  have h : s.Tended none := ⟨hrecords, (State.ownersWf_iff hdeadlines.1).mp howners⟩
  have ht := (step_keeps (P := fun u : State => u.Tended none) Event.keeps_tended hstep h).owned
  exact (State.ownersWf_iff ht.ids).mpr ht

end Sys2Proof.Machine
end

section
/-! PROOF. Every token in force was issued and no two leases carry the same one (R20, R21): a grant
takes a token that no slot carries yet, and no other operation writes a token into a slot. -/

namespace Sys2Proof.Machine

/-! Tokens in force -/

section
variable {s t : State}

theorem State.tokenOf_congr {r : Res} (h : (t.record r).slots = (s.record r).slots) (c : Client) :
    t.tokenOf r c = s.tokenOf r c := by
  unfold State.tokenOf Record.lease
  rw [h]

/-- An operation that issues no token and fills no slot. -/
structure NoNewToken (s t : State) : Prop where
  nextToken : t.nextToken = s.nextToken
  tokens : ∀ r c, ∀ k ∈ t.tokenOf r c, k ∈ s.tokenOf r c

theorem NoNewToken.tokensWf (e : NoNewToken s t) (h : s.TokensWf) : t.TokensWf := by
  obtain ⟨issued, unique⟩ := h
  refine ⟨fun r c k hk => ?_, fun r r' c c' k hk hk' => ?_⟩
  · rw [e.nextToken]
    exact issued r c k (e.tokens r c k hk)
  · exact unique r r' c c' k (e.tokens r c k hk) (e.tokens r' c' k hk')

theorem SameLeases.noNewToken (e : SameLeases s t) : NoNewToken s t :=
  ⟨e.nextToken, fun r c k hk => by rwa [← State.tokenOf_congr (congrArg _ (e.record r)) c]⟩

/-- A record rewritten with no token that it did not carry. -/
theorem State.setRecord_noNewToken {r : Res} {x : Record}
    (h : ∀ c, ∀ l ∈ x.lease c, (s.record r).lease c = some l) :
    NoNewToken s (s.setRecord r x) := by
  refine ⟨rfl, fun k c tok hk => ?_⟩
  unfold State.tokenOf at hk ⊢
  rw [State.record_setRecord] at hk
  split at hk
  · rename_i hkr
    obtain ⟨l, hl, rfl⟩ := Option.map_eq_some_iff.mp hk
    rw [hkr, h c l hl]
    rfl
  · exact hk

theorem State.TokensWf.setRecord (h : s.TokensWf) {r : Res} {x : Record}
    (hx : ∀ c, ∀ l ∈ x.lease c, (s.record r).lease c = some l) : (s.setRecord r x).TokensWf :=
  (State.setRecord_noNewToken hx).tokensWf h

/-- A record rewritten with its slots as they were. -/
theorem State.TokensWf.setFields (h : s.TokensWf) {r : Res} {x : Record}
    (hx : x.slots = (s.record r).slots) : (s.setRecord r x).TokensWf :=
  h.setRecord fun c l hl => by
    unfold Record.lease at hl ⊢
    rwa [← hx]

theorem SameLeases.tokensWf (e : SameLeases s t) (h : s.TokensWf) : t.TokensWf :=
  e.noNewToken.tokensWf h

/-- The records and the counter as they were, whatever became of the wait entries. -/
theorem State.TokensWf.congr (h : s.TokensWf) (hn : t.nextToken = s.nextToken)
    (hr : ∀ r, t.record r = s.record r) : t.TokensWf :=
  NoNewToken.tokensWf
    ⟨hn, fun r c k hk => by rwa [← State.tokenOf_congr (congrArg _ (hr r)) c]⟩ h

/-- With every slot empty no token is in force. -/
theorem State.tokensWf_of_no_lease (h : ∀ r c, (s.record r).lease c = none) : s.TokensWf := by
  simp [State.TokensWf, State.tokenOf, h]

/-! Grants -/

theorem State.nextToken_takeToken (s : State) : s.takeToken.nextToken = s.nextToken + 1 := by
  unfold State.takeToken
  dsimp only
  split <;> rfl

theorem State.nextToken_grant (s : State) (r : Res) (c : Client) (m : Mode) (hold : Ticks) :
    (s.grant r c m hold).nextToken = s.nextToken + 1 := by
  unfold State.grant
  dsimp only
  rw [(State.report_sameLeases _ r c).nextToken, (State.arm_sameLeases _ _ _).nextToken,
    State.nextToken_takeToken]
  rfl

theorem State.tokenOf_grant (s : State) (r : Res) (c : Client) (m : Mode) (hold : Ticks) (k : Res)
    (d : Client) :
    (s.grant r c m hold).tokenOf k d
      = if k = r ∧ d = c then some s.nextToken else s.tokenOf k d := by
  have granted : ∀ x : Record, (x.granted c s.newLease m).lease d
      = if d = c then some s.newLease else x.lease d := fun x =>
    Record.lease_setLease x c d (some s.newLease)
  unfold State.tokenOf
  rw [State.record_grant]
  by_cases hk : k = r
  · rw [if_pos hk, granted, hk]
    by_cases hd : d = c
    · rw [if_pos hd, if_pos ⟨rfl, hd⟩]
      rfl
    · rw [if_neg hd, if_neg fun e => hd e.2]
  · rw [if_neg hk, if_neg fun e => hk e.1]

/-- The token after a live counter's value: the counter is exhausted, or has moved past it. -/
theorem token_lt_succ (n : Token) : n + 1 = 0 ∨ n < n + 1 := by
  bv_omega

/-- A grant issues a token that no slot carries (R20). -/
theorem State.TokensWf.grant (h : s.TokensWf) (hx : s.exhausted = false) (r : Res) (c : Client)
    (m : Mode) (hold : Ticks) : (s.grant r c m hold).TokensWf := by
  obtain ⟨issued, unique⟩ := h
  have live : s.nextToken ≠ 0 := beq_eq_false_iff_ne.mp hx
  have old : ∀ k d, ∀ tok ∈ s.tokenOf k d, tok ≠ 0 ∧ tok < s.nextToken := fun k d tok ht =>
    ⟨(issued k d tok ht).1, (issued k d tok ht).2.resolve_left live⟩
  have fresh : ∀ k d, s.tokenOf k d ≠ some s.nextToken := fun k d ht =>
    absurd (old k d _ ht).2 (BitVec.lt_irrefl _)
  refine ⟨fun k d tok ht => ?_, fun k k' d d' tok ht ht' => ?_⟩
  · rw [State.nextToken_grant]
    rw [Option.mem_def, State.tokenOf_grant] at ht
    split at ht
    · obtain rfl := Option.some.inj ht
      exact ⟨live, token_lt_succ _⟩
    · obtain ⟨hne, hlt⟩ := old k d tok ht
      exact ⟨hne, (token_lt_succ _).imp id fun hn => BitVec.lt_trans hlt hn⟩
  · rw [Option.mem_def, State.tokenOf_grant] at ht
    rw [State.tokenOf_grant] at ht'
    split at ht <;> rename_i hk
    · split at ht' <;> rename_i hk'
      · exact ⟨hk.1.trans hk'.1.symm, hk.2.trans hk'.2.symm⟩
      · exact absurd (ht'.trans ht.symm) (fresh k' d')
    · split at ht'
      · exact absurd (ht.trans ht'.symm) (fresh k d)
      · exact unique k k' d d' tok ht ht'

theorem State.TokensWf.removeEntry (h : s.TokensWf) (i : PoolIx) : (s.removeEntry i).TokensWf :=
  h.congr (s.nextToken_removeEntry i) (s.record_removeEntry i)

theorem State.TokensWf.removeUpgrade (h : s.TokensWf) (r : Res) (c : Client) :
    (s.removeUpgrade r c).TokensWf :=
  h.congr (s.nextToken_removeUpgrade r c) (s.record_removeUpgrade r c)

theorem State.TokensWf.cancelQueue (h : s.TokensWf) (r : Res) : (s.cancelQueue r).TokensWf :=
  h.congr (s.nextToken_cancelQueue r) (s.record_cancelQueue r)

theorem State.TokensWf.cancelUpgrade (h : s.TokensWf) (r : Res) : (s.cancelUpgrade r).TokensWf :=
  h.congr (s.nextToken_cancelUpgrade r) (s.record_cancelUpgrade r)

theorem State.TokensWf.grantEntry (h : s.TokensWf) (hx : s.exhausted = false) (r : Res)
    (i : PoolIx) (e : WaitEntry) : (s.grantEntry r i e).TokensWf :=
  (State.notify_sameLeases _ _ _ _).tokensWf
    ((h.removeEntry i).grant ((s.exhausted_removeEntry i).trans hx) _ _ _ _)

theorem State.TokensWf.grantRule (h : s.TokensWf) (r : Res) : (s.grantRule r).TokensWf := by
  unfold State.grantRule
  split
  · exact State.grantHeads_keeps (P := State.TokensWf)
      (fun _ i e _ hx _ ht => ht.grantEntry hx r i e) _ h
  · exact h

/-- A queued request writes no token, and the grant rule that follows issues new ones. -/
theorem State.TokensWf.queued (h : s.TokensWf) (i : PoolIx) (e : WaitEntry) (q : List PoolIx)
    (wait : Ticks) (r : Res) : ((s.allocate i e q wait).grantRule r).TokensWf :=
  State.TokensWf.grantRule
    (h.congr (s.nextToken_allocate i e q wait) (s.record_allocate i e q wait)) r

/-! The release path -/

theorem State.TokensWf.vacate (h : s.TokensWf) (r : Res) (c : Client) :
    (s.vacate r c).TokensWf := by
  refine (s.vacate_sameLeases r c).tokensWf (h.setRecord fun d l hl => ?_)
  rw [Option.mem_def, Record.lease_setLease] at hl
  split at hl
  · cases hl
  · exact hl

theorem State.TokensWf.goOffline (h : s.TokensWf) (r : Res) : (s.goOffline r).TokensWf :=
  h.setRecord fun c l hl => by simp at hl

theorem State.TokensWf.lastHolderLeft (h : s.TokensWf) (r : Res) :
    (s.lastHolderLeft r).TokensWf := by
  have ht : (if (s.record r).state = .revoking then s.disarm (.grace r) else s).TokensWf := by
    split
    · exact (s.disarm_sameLeases _).tokensWf h
    · exact h
  have hr : (if (s.record r).state = .revoking then s.disarm (.grace r) else s).record r
      = s.record r := by split <;> rfl
  unfold State.lastHolderLeft
  dsimp only
  generalize (if (s.record r).state = .revoking then s.disarm (.grace r) else s) = u at ht hr ⊢
  rw [← hr]
  split
  · exact (State.arm_sameLeases _ _ _).tokensWf (ht.setFields rfl)
  · split
    · exact ht.goOffline r
    · have idle : (u.setRecord r
          { u.record r with state := .idle, heldMode := none, deadline := .absent }).TokensWf :=
        ht.setFields rfl
      exact idle.grantRule r

theorem State.TokensWf.endLease (h : s.TokensWf) (r : Res) (c : Client) (quiet : Bool) :
    (s.endLease r c quiet).TokensWf := by
  by_cases hlast : ((s.record r).setLease c none).holders = []
  · rw [State.endLease_of_last quiet hlast]
    exact (h.vacate r c).lastHolderLeft r
  · rw [State.endLease_of_more quiet hlast]
    split
    · exact (h.vacate r c).grantRule r
    · exact h.vacate r c

theorem State.TokensWf.removeHolder (h : s.TokensWf) (r : Res) (c : Client) :
    (State.removeHolder r s c).TokensWf := by
  unfold State.removeHolder
  split
  · exact ((s.notify_sameLeases _ _ _).tokensWf h).endLease r c true
  · exact h

theorem State.TokensWf.removeHolders (h : s.TokensWf) (r : Res) : (s.removeHolders r).TokensWf :=
  List.foldlRecOn (motive := State.TokensWf) _ _ h fun _ ht c _ => ht.removeHolder r c

theorem State.TokensWf.releaseResource (h : s.TokensWf) (c : Client) (r : Res) :
    (State.releaseResource c s r).TokensWf := by
  have hd : (s.dropWait c r).TokensWf := by
    unfold State.dropWait
    split
    · exact (h.removeEntry _).grantRule r
    · exact h
  unfold State.releaseResource State.dropLease
  split
  · exact hd.endLease r c false
  · exact hd

theorem State.TokensWf.massRelease (h : s.TokensWf) (c : Client) : (s.massRelease c).TokensWf :=
  (State.discardNotices_sameLeases _ c).tokensWf
    (List.foldlRecOn (motive := State.TokensWf) _ _ h fun _ ht r _ => ht.releaseResource c r)

theorem State.TokensWf.closeNow (h : s.TokensWf) (c : Client) : (s.closeNow c).TokensWf :=
  (State.endSession_sameLeases _ c _).tokensWf
    (((s.disarm_sameLeases _).tokensWf h).massRelease c)

theorem State.TokensWf.evictNow (h : s.TokensWf) (c : Client) : (s.evictNow c).TokensWf :=
  ((State.placeSessionNotice_sameLeases _ c _).trans (State.endSession_sameLeases _ c _)).tokensWf
    (((s.disarm_sameLeases _).tokensWf h).massRelease c)

theorem State.TokensWf.lapseNow (h : s.TokensWf) (c : Client) : (s.lapseNow c).TokensWf :=
  (((State.placeSessionNotice_sameLeases _ c _).trans (State.endSession_sameLeases _ c _)).trans
    (State.raise_sameLeases _ _)).tokensWf (h.massRelease c)

/-! The deliveries -/

theorem State.TokensWf.deliver (h : s.TokensWf) (id : DeadlineId) : (s.deliver id).TokensWf := by
  cases id with
  | hold r c =>
    show (s.holdExpired r c).TokensWf
    unfold State.holdExpired
    split
    · exact (((s.notify_sameLeases _ _ _).tokensWf h).removeUpgrade r c).endLease r c false
    · exact h
  | wait i =>
    show (s.waitExpired i).TokensWf
    unfold State.waitExpired
    split
    · exact (((s.notify_sameLeases _ _ _).tokensWf h).removeEntry i).grantRule _
    · exact h
  | session c =>
    show (s.sessionExpired c).TokensWf
    unfold State.sessionExpired
    split
    · exact h.lapseNow c
    · exact h
  | grace r =>
    show (s.graceExpired r).TokensWf
    unfold State.graceExpired
    split
    · exact (State.raise_sameLeases _ _).tokensWf (h.removeHolders r)
    · exact h
  | guard r =>
    show (s.guardExpired r).TokensWf
    unfold State.guardExpired
    dsimp only
    split
    · split
      · exact h.goOffline r
      · have idle : (s.setRecord r
            { s.record r with state := .idle, deadline := .absent }).TokensWf := h.setFields rfl
        exact idle.grantRule r
    · exact h

/-! The events -/

theorem Event.keeps_tokensWf (s t : State) (e : Event s t) (h : s.TokensWf) : t.TokensWf := by
  cases e with
  | outside same => exact same.leases.tokensWf h
  | deviceReset same =>
    exact same.leases.tokensWf (State.tokensWf_of_no_lease fun r c => by simp)
  | clearAll =>
    refine State.tokensWf_of_no_lease fun r c => ?_
    show (Vec.get (s.records.map Record.atRest) r).lease c = none
    rw [Vec.get_map]
    unfold Record.atRest
    split
    · exact Record.cleared_lease c
    · exact Vec.get_replicate _ c
  | tick =>
    exact State.tick_keeps (P := State.TokensWf) (fun u t => (u.setClock_sameLeases t).tokensWf)
      (fun u d rest _ hu => ((u.setDeadlines_sameLeases rest).tokensWf hu).deliver d.id) h
  | expiry id _ => exact ((s.disarm_sameLeases id).tokensWf h).deliver id
  | kept c => exact (s.keepSession_sameLeases c).tokensWf h
  | opened c ttl _ => exact (s.openNow_sameLeases c ttl).tokensWf h
  | closed c _ => exact h.closeNow c
  | evicted c _ => exact h.evictNow c
  | policySet c p => exact (s.setSession_sameLeases c _).tokensWf h
  | fetched c n rest _ =>
    exact ((s.setNoticeQueue_sameLeases c _).trans
      (State.reportRemoved_sameLeases _ c n)).tokensWf h
  | attentionSet c m _ => exact (s.setNoticeQueue_sameLeases c _).tokensWf h
  | claimed c r m hold _ checks _ =>
    obtain ⟨-, -, -, hx⟩ := State.claimChecks_open checks
    exact h.grant hx r c m hold
  | claimQueued c r m hold wait i _ _ _ _ _ => exact h.queued i _ _ wait r
  | upgraded c r hold _ checks _ =>
    have hx : s.exhausted = false := by
      simpa using firstFailing_eq_none.mp checks (!s.exhausted, .exhausted)
        (by simp [State.upgradeChecks])
    exact h.grant hx r c .exclusive hold
  | upgradeQueued c r hold wait i _ _ _ _ _ => exact h.queued i _ _ wait r
  | renewed c r hold _ _ _ => exact (s.arm_sameLeases _ _).tokensWf h
  | released c r _ _ => exact (h.removeUpgrade r c).endLease r c false
  | downgraded c r _ _ =>
    have lowered : (s.setRecord r { s.record r with heldMode := some .shared }).TokensWf :=
      h.setFields rfl
    exact ((State.report_sameLeases _ r c).tokensWf lowered).grantRule r
  | withdrawn c r i _ _ => exact (h.removeEntry i).grantRule r
  | defined r a _ =>
    exact h.setRecord fun c l hl => by
      rw [Option.mem_def, show (Record.defined a).lease c = none from Record.cleared_lease c] at hl
      cases hl
  | amended r a _ _ _ => exact h.setFields rfl
  | revoked r _ _ =>
    have hw := (SameLeases.foldl (fun u c => u.warnHolder_sameLeases r c)
      ((s.cancelUpgrade r).record r).holders (s.cancelUpgrade r)).tokensWf (h.cancelUpgrade r)
    exact (State.arm_sameLeases _ _ _).tokensWf (hw.setFields rfl)
  | revokedAtOnce r _ _ =>
    exact (State.raise_sameLeases _ _).tokensWf ((h.cancelUpgrade r).removeHolders r)
  | retired r _ _ => exact (h.cancelQueue r).goOffline r
  | retiring r _ _ _ =>
    have marked : (s.setRecord r { s.record r with retirePending := true }).TokensWf :=
      h.setFields rfl
    exact marked.cancelQueue r

end

/-- Settles O58: every event keeps the tokens issued and unique, so every step does. -/
theorem tokensStayUnique : Obligations.TokensStayUnique := fun _ _ h hstep =>
  step_keeps Event.keeps_tokensWf hstep h

end Sys2Proof.Machine
end

section
/-! PROOF. The operations on leases and wait entries as updates of the state, in the statements'
terms, and what a client request that reaches its owner does. -/

namespace Sys2Proof.Machine

/-! Reports, tokens and grants -/

section
variable {s : State}

/-- The report of a pair whose three conditions come to `b` (R118). -/
theorem State.report_eq {r : Res} {c : Client} {b : Bool} (h : s.concerns r c = b) :
    s.report r c
      = { s with sessions := Vec.set s.sessions c ((s.session c).setInvolves r b) } := by
  subst h
  rfl

theorem State.concerns_of_holds {r : Res} {c : Client} (h : s.holds r c = true) :
    s.concerns r c = true := by
  unfold State.concerns
  rw [h]
  rfl

theorem State.concerns_of_waits {r : Res} {c : Client} (h : s.waits r c = true) :
    s.concerns r c = true := by
  unfold State.concerns
  rw [h, Bool.or_true]
  rfl

theorem State.concerns_of_unread {r : Res} {c : Client} (h : s.unread r c = true) :
    s.concerns r c = true := by
  unfold State.concerns
  rw [h, Bool.or_true]

/-- A second report of a pair replaces the first. -/
theorem Session.setInvolves_setInvolves (x : Session) (r : Res) (a b : Bool) :
    (x.setInvolves r a).setInvolves r b = x.setInvolves r b := by
  unfold Session.setInvolves
  rw [Vec.set_set]

theorem State.takeToken_eq (s : State) :
    s.takeToken
      = { s with
          nextToken := s.nextToken + 1
          supervisor := s.supervisor.afterToken s.nextToken } := by
  unfold State.takeToken Supervisor.afterToken
  dsimp only
  split <;> rfl

/-- A grant, field by field (R20 to R23, R26, R30, R54). -/
theorem State.grant_eq (s : State) (r : Res) (c : Client) (m : Mode) (hold : Ticks) :
    s.grant r c m hold
      = { s with
          records := Vec.set s.records r
            { s.record r with
              state := .held
              heldMode := some m
              slots := Vec.set (s.record r).slots c
                (some { token := s.nextToken, grantedAt := s.clock }) }
          nextToken := s.nextToken + 1
          deadlines := armedList s.clock (.hold r c) (effectiveHold (s.record r).attrs hold)
            s.deadlines
          sessions := Vec.set s.sessions c ((s.session c).setInvolves r true)
          supervisor := s.supervisor.afterToken s.nextToken } := by
  have held : (s.grant r c m hold).holds r c = true := by
    rw [State.holds_grant, if_pos ⟨rfl, rfl⟩]
  unfold State.grant at held ⊢
  dsimp only at held ⊢
  refine (State.report_eq ?_ (b := true)).trans ?_
  · exact State.concerns_of_holds held
  · rw [State.arm_eq, State.takeToken_eq]
    rfl

/-! Who waits -/

theorem State.waits_iff {r : Res} {c : Client} :
    s.waits r c = true ↔ ∃ i ∈ s.queue r, s.entryOf c i = true := List.find?_isSome

theorem State.not_waits_iff {r : Res} {c : Client} :
    s.waits r c = false ↔ ∀ i ∈ s.queue r, s.entryOf c i = false := by
  rw [← Bool.not_eq_true, State.waits_iff]
  simp

theorem State.entryOf_of_entry {i : PoolIx} {e : WaitEntry} (h : s.entry i = some e) (c : Client) :
    s.entryOf c i = (e.client == c) := by
  unfold State.entryOf
  rw [h]

/-! Entries of the wait pool -/

/-- A removed entry: its queue, its index, its WAIT deadline, and the report (R50). -/
theorem State.removeEntry_of_entry {i : PoolIx} {e : WaitEntry} (h : s.entry i = some e) :
    s.removeEntry i
      = State.report
        { s with
          queues := Vec.set s.queues e.resource ((s.queue e.resource).erase i)
          entries := Vec.set s.entries i none
          deadlines := withoutDeadline (.wait i) s.deadlines } e.resource e.client := by
  unfold State.removeEntry
  rw [h]
  rfl

theorem State.freeIndex_eq_none (h : ∀ i : PoolIx, s.entry i ≠ none) : s.freeIndex = none := by
  refine List.find?_eq_none.mpr fun i _ => ?_
  rw [Option.isNone_iff_eq_none]
  exact h i

/-- The lowest free index is the free index below which none is free (R48). -/
theorem State.freeIndex_eq_some {i : PoolIx} (free : s.entry i = none)
    (lowest : ∀ j < i, s.entry j ≠ none) : s.freeIndex = some i := by
  refine List.find?_eq_some_iff_getElem.mpr
    ⟨by rw [free]; rfl, i.val, by simp, by simp, fun j hj => ?_⟩
  have hlow := lowest ⟨j, by omega⟩ hj
  simpa [Option.isSome_iff_ne_none] using hlow

/-- A new entry, field by field (R31, R51, R55). -/
theorem State.allocate_eq {i : PoolIx} {e : WaitEntry} {q : List PoolIx} (wait : Ticks)
    (hi : i ∈ q) :
    s.allocate i e q wait
      = { s with
          entries := Vec.set s.entries i (some e)
          queues := Vec.set s.queues e.resource q
          deadlines :=
            if wait = 65535 then s.deadlines
            else armedList s.clock (.wait i) wait s.deadlines
          sessions := Vec.set s.sessions e.client
            ((s.session e.client).setInvolves e.resource true) } := by
  have waits : (s.allocate i e q wait).waits e.resource e.client = true := by
    refine State.waits_iff.mpr ⟨i, ?_, ?_⟩
    · rw [State.queue_allocate, if_pos rfl]
      exact hi
    · have he : (s.allocate i e q wait).entry i = some e := by
        rw [State.entry_allocate, if_pos rfl]
      rw [State.entryOf_of_entry he]
      exact beq_self_eq_true e.client
  unfold State.allocate at waits ⊢
  refine (State.report_eq ?_ (b := true)).trans ?_
  · exact State.concerns_of_waits waits
  unfold State.armWait
  by_cases hw : wait = waitForever
  · have hw' : wait = 65535 := hw
    rw [if_pos hw, if_pos hw']
    rfl
  · have hw' : ¬wait = 65535 := hw
    rw [if_neg hw, if_neg hw', State.arm_eq]
    rfl

/-! The grant rule where there is nothing to grant -/

/-- On a settled resource the grant rule does nothing (R24, R25). -/
theorem State.grantRule_of_settled {r : Res} (h : s.settled r = true) : s.grantRule r = s := by
  rcases State.settled_iff.mp h with hx | hg | hc
  · exact State.grantRule_of_exhausted hx
  · exact State.grantRule_of_not_grants hg
  · unfold State.grantRule
    cases hq : s.queue r with
    | nil => rw [State.grantHeads_nil, ite_self]
    | cons i rest =>
      rw [State.grantHeads_cons_stopped fun e he => .inr (hc i (by simp [hq]) e he), ite_self]

/-! A client request that reaches its owner -/

/-- The implicit keepalive touches the deadline list alone (R107). -/
theorem State.keepSession_eq (s : State) (p : Client) :
    ∃ l, s.keepSession p = { s with deadlines := l } := by
  unfold State.keepSession
  split
  · exact ⟨_, State.arm_eq s _ _⟩
  · exact ⟨s.deadlines, rfl⟩

theorem State.keepSession_of_not_attached {p : Client} (h : s.attached p = false) :
    s.keepSession p = s := by
  simp [State.keepSession, h]

@[simp] theorem State.record_keepSession (s : State) (p : Client) (r : Res) :
    (s.keepSession p).record r = s.record r := (s.keepSession_sameLeases p).record r

@[simp] theorem State.holds_keepSession (s : State) (p : Client) (r : Res) (c : Client) :
    (s.keepSession p).holds r c = s.holds r c := (s.keepSession_sameLeases p).holds r c

@[simp] theorem State.attached_keepSession (s : State) (p c : Client) :
    (s.keepSession p).attached c = s.attached c := by
  obtain ⟨l, hl⟩ := s.keepSession_eq p
  rw [hl]
  rfl

/-- The number check passes the number of a resource. -/
theorem State.withResource_of_attached {c : Client} (h : s.attached c = true) (r : Res)
    (next : Res → Decision) : s.withResource c (numberByte r) next = next r := by
  unfold State.withResource
  rw [if_pos h, numberBelow_numberByte (by decide)]

variable {p : Client} {tag : Byte} {q : ClientRequest} {params : List Byte}

/-- The owner's decision on the state after the implicit keepalive is what a request that reaches
its owner leaves, with the answer on the port and in its replay record (R107, R155). -/
theorem State.clientRequest_decided (h : s.reaches p tag) (hq : q.length ≤ 16)
    (hl : params.length = q.length) (hr : q.inRange params = true)
    (hP : PortFree (q.rule p params)) {d : Decision}
    (hd : q.rule p params (s.keepSession p) = d) :
    s.clientRequest p q tag params (goodCrc q.code tag params)
      = d.state.afterReply p q.code tag params d.status d.payload := by
  obtain ⟨between, fresh, enabled⟩ := h
  have decided : s.decideRequest p q params = d := by
    unfold State.decideRequest
    rw [enabled]
    exact hd
  rw [State.clientRequest_executed between q tag params hq hl hr fresh hP, decided]

/-- A request whose checks fail is answered with the first that fails (R29). -/
theorem State.clientRequest_refused (h : s.reaches p tag) (hq : q.length ≤ 16)
    (hl : params.length = q.length) (hr : q.inRange params = true)
    (hP : PortFree (q.rule p params)) {checks : List (Bool × Status)} {d : Decision} {st : Status}
    (hrule : q.rule p params (s.keepSession p) = (s.keepSession p).checked checks d)
    (hf : firstFailing checks = some st) :
    s.clientRequest p q tag params (goodCrc q.code tag params)
      = (s.keepSession p).afterReply p q.code tag params st [] :=
  State.clientRequest_decided h hq hl hr hP (hrule.trans (State.checked_of_fail hf))

/-- A request whose checks pass is carried out. -/
theorem State.clientRequest_accepted (h : s.reaches p tag) (hq : q.length ≤ 16)
    (hl : params.length = q.length) (hr : q.inRange params = true)
    (hP : PortFree (q.rule p params)) {checks : List (Bool × Status)} {d : Decision}
    (hrule : q.rule p params (s.keepSession p) = (s.keepSession p).checked checks d)
    (hf : firstFailing checks = none) :
    s.clientRequest p q tag params (goodCrc q.code tag params)
      = d.state.afterReply p q.code tag params d.status d.payload :=
  State.clientRequest_decided h hq hl hr hP (hrule.trans (State.checked_of_pass hf))

end

end Sys2Proof.Machine
end

section
/-! PROOF. The requests of a client on a resource: the two checks they share, CLAIM, RENEW,
DOWNGRADE and QUERY (R29 to R32, R36 to R40). -/

namespace Sys2Proof.Machine

/-! The checks that the client requests share -/

/-- The request of the client catalogue behind a row of the statements. -/
structure ClientRow.Runs (row : ClientRow) (q : ClientRequest) : Prop where
  mem : q ∈ clientCatalogue
  code : q.code = row.code
  length : q.length = row.length
  inRange : ∀ params, params.length = row.length → row.inRange params = true →
    q.inRange params = true
  exec : ∀ (p : Client) (tag : Byte) (params : List Byte) (crc : Byte) (s : State),
    Machine.exec (row.command p tag params crc) s = .next (s.clientRequest p q tag params crc)

theorem claimInRange_of_le {params : List Byte} (hl : params.length = 6)
    (hr : (params.getD 1 0).toNat ≤ 1) : claimInRange params = true := by
  match params, hl with
  | [r, m, h1, h0, w1, w0], _ =>
    have hm : m = 0 ∨ m = 1 := by
      have : m.toNat ≤ 1 := hr
      bv_omega
    rcases hm with rfl | rfl <;> rfl

theorem attentionInRange_of_lt {params : List Byte} (hl : params.length = 1)
    (hr : (params.getD 0 0).toNat < 64) : attentionInRange params = true := by
  match params, hl with
  | [m], _ =>
    have hm : m.toNat < 2 ^ 6 := hr
    show (flagsBelow 6 m).isSome = true
    unfold flagsBelow
    rw [if_pos hm]
    rfl

/-- Every row of the statements runs a request of the catalogue. -/
theorem clientRow_runs {row : ClientRow} (h : row ∈ clientRows) : ∃ q, row.Runs q := by
  have inClient : ∀ {q : ClientRequest} (k : Nat), clientCatalogue[k]? = some q →
      q ∈ clientCatalogue := fun _ => List.mem_of_getElem?
  simp only [clientRows, List.mem_cons, List.not_mem_nil, or_false] at h
  rcases h with rfl | rfl | rfl | rfl | rfl | rfl | rfl | rfl | rfl | rfl | rfl | rfl | rfl
  · exact ⟨statusRequest, inClient 0 rfl, rfl, rfl, fun _ _ _ => rfl, fun _ _ _ _ _ => rfl⟩
  · exact ⟨openRequest, inClient 1 rfl, rfl, rfl, fun _ _ _ => rfl, fun _ _ _ _ _ => rfl⟩
  · exact ⟨closeRequest, inClient 2 rfl, rfl, rfl, fun _ _ _ => rfl, fun _ _ _ _ _ => rfl⟩
  · exact ⟨keepaliveRequest, inClient 3 rfl, rfl, rfl, fun _ _ _ => rfl, fun _ _ _ _ _ => rfl⟩
  · exact ⟨claimRequest, inClient 4 rfl, rfl, rfl,
      fun _ hl hr => claimInRange_of_le hl (of_decide_eq_true hr), fun _ _ _ _ _ => rfl⟩
  · exact ⟨renewRequest, inClient 5 rfl, rfl, rfl, fun _ _ _ => rfl, fun _ _ _ _ _ => rfl⟩
  · exact ⟨releaseRequest, inClient 6 rfl, rfl, rfl, fun _ _ _ => rfl, fun _ _ _ _ _ => rfl⟩
  · exact ⟨downgradeRequest, inClient 7 rfl, rfl, rfl, fun _ _ _ => rfl, fun _ _ _ _ _ => rfl⟩
  · exact ⟨upgradeRequest, inClient 8 rfl, rfl, rfl, fun _ _ _ => rfl, fun _ _ _ _ _ => rfl⟩
  · exact ⟨withdrawRequest, inClient 9 rfl, rfl, rfl, fun _ _ _ => rfl, fun _ _ _ _ _ => rfl⟩
  · exact ⟨queryRequest, inClient 10 rfl, rfl, rfl, fun _ _ _ => rfl, fun _ _ _ _ _ => rfl⟩
  · exact ⟨fetchRequest, inClient 11 rfl, rfl, rfl, fun _ _ _ => rfl, fun _ _ _ _ _ => rfl⟩
  · exact ⟨setAttentionRequest, inClient 12 rfl, rfl, rfl,
      fun _ hl hr => attentionInRange_of_lt hl (of_decide_eq_true hr), fun _ _ _ _ _ => rfl⟩

theorem clientRow_length_le : ∀ row ∈ clientRows, row.length ≤ 16 := by decide

/-- What the requests have in common that only an ATTACHED client may make (R29, R110, R112, R133):
NO SESSION for the others, and NO RESOURCE for a number of 64 or more where they name a resource. -/
structure SessionRequest (q : ClientRequest) (p : Client) (params : List Byte) : Prop where
  portFree : PortFree (q.rule p params)
  noSession : ∀ s : State, s.attached p = false → q.rule p params s = s.answer .noSession
  noResource : 0x10 ≤ q.code.toNat → q.code.toNat ≤ 0x16 → ∀ s : State, s.attached p = true →
    64 ≤ (params.getD 0 0).toNat → q.rule p params s = s.answer .noResource

/-- The requests on a resource begin with the two checks of TABLE 2-3. -/
theorem SessionRequest.of_withResource {q : ClientRequest} {p : Client} {params : List Byte}
    (hP : PortFree (q.rule p params))
    (h : ∀ s, ∃ next, q.rule p params s = s.withResource p (params.getD 0 0) next) :
    SessionRequest q p params := by
  refine ⟨hP, fun s ha => ?_, fun _ _ s ha hn => ?_⟩
  · obtain ⟨next, e⟩ := h s
    rw [e]
    unfold State.withResource
    rw [if_neg (by simp [ha])]
  · obtain ⟨next, e⟩ := h s
    rw [e]
    unfold State.withResource
    rw [if_pos ha, numberBelow_of_le hn]

/-- CLOSE, KEEPALIVE and SET ATTENTION name no resource. -/
theorem SessionRequest.of_session {q : ClientRequest} {p : Client} {params : List Byte}
    (hP : PortFree (q.rule p params)) (hc : ¬(0x10 ≤ q.code.toNat ∧ q.code.toNat ≤ 0x16))
    (h : ∀ s : State, s.attached p = false → q.rule p params s = s.answer .noSession) :
    SessionRequest q p params :=
  ⟨hP, h, fun h1 h2 => absurd ⟨h1, h2⟩ hc⟩

theorem claimRule_withResource (p : Client) {params : List Byte} (hl : params.length = 6)
    (hr : claimInRange params = true) (s : State) :
    ∃ next, claimRule p params s = s.withResource p (params.getD 0 0) next := by
  match params, hl with
  | [r, m, h1, h0, w1, w0], _ =>
    obtain ⟨k, hk⟩ := Option.isSome_iff_exists.mp hr
    unfold claimRule
    dsimp only
    rw [hk]
    exact ⟨_, rfl⟩

theorem renewRule_withResource (p : Client) {params : List Byte} (hl : params.length = 3)
    (s : State) : ∃ next, renewRule p params s = s.withResource p (params.getD 0 0) next := by
  match params, hl with
  | [r, h1, h0], _ => exact ⟨_, rfl⟩

theorem upgradeRule_withResource (p : Client) {params : List Byte} (hl : params.length = 5)
    (s : State) : ∃ next, upgradeRule p params s = s.withResource p (params.getD 0 0) next := by
  match params, hl with
  | [r, h1, h0, w1, w0], _ => exact ⟨_, rfl⟩

/-- The requests that name a resource and nothing else. -/
theorem oneByteRule_withResource {rule : Client → List Byte → State → Decision} (p : Client)
    {params : List Byte} (hl : params.length = 1) (s : State)
    (h : ∀ r : Byte, ∃ next, rule p [r] s = s.withResource p r next) :
    ∃ next, rule p params s = s.withResource p (params.getD 0 0) next := by
  match params, hl with
  | [r], _ => exact h r

/-- Every client request but STATUS, OPEN and FETCH is for an ATTACHED client. -/
theorem clientCatalogue_sessionRequest {q : ClientRequest} (hq : q ∈ clientCatalogue)
    (hstatus : q.code ≠ 0x01) (hopen : q.code ≠ 0x02) (hfetch : q.code ≠ 0x20) (p : Client)
    {params : List Byte} (hl : params.length = q.length) (hr : q.inRange params = true) :
    SessionRequest q p params := by
  simp only [clientCatalogue, List.mem_cons, List.not_mem_nil, or_false] at hq
  rcases hq with rfl | rfl | rfl | rfl | rfl | rfl | rfl | rfl | rfl | rfl | rfl | rfl | rfl
  · exact absurd rfl hstatus
  · exact absurd rfl hopen
  · exact .of_session (portFree_close p params) (by decide) fun s ha => by
      simp [closeRequest, closeRule, ha]
  · exact .of_session (portFree_keepalive p params) (by decide) fun s ha => by
      simp [keepaliveRequest, keepaliveRule, ha]
  · exact .of_withResource (portFree_claim p params) (claimRule_withResource p hl hr)
  · exact .of_withResource (portFree_renew p params) (renewRule_withResource p hl)
  · exact .of_withResource (portFree_release p params) fun s =>
      oneByteRule_withResource p hl s fun _ => ⟨_, rfl⟩
  · exact .of_withResource (portFree_downgrade p params) fun s =>
      oneByteRule_withResource p hl s fun _ => ⟨_, rfl⟩
  · exact .of_withResource (portFree_upgrade p params) (upgradeRule_withResource p hl)
  · exact .of_withResource (portFree_withdraw p params) fun s =>
      oneByteRule_withResource p hl s fun _ => ⟨_, rfl⟩
  · exact .of_withResource (portFree_query p params) fun s =>
      oneByteRule_withResource p hl s fun _ => ⟨_, rfl⟩
  · exact absurd rfl hfetch
  · exact .of_session (portFree_setAttention p params) (by decide) fun s ha => by
      simp [setAttentionRequest, setAttentionRule, ha]

/-- Settles O10: the two checks stand before every other one, on the state after the keepalive. -/
theorem sessionAndNumberChecks : Obligations.SessionAndNumberChecks := by
  intro s p tag params hreach row hrow hl hr
  obtain ⟨q, hq⟩ := clientRow_runs hrow
  have hlq : params.length = q.length := hl.trans hq.length.symm
  have hrq : q.inRange params = true := hq.inRange params hl hr
  have hmax : q.length ≤ 16 := hq.length ▸ clientRow_length_le row hrow
  have answered : ∀ st : Status, PortFree (q.rule p params) →
      q.rule p params (s.keepSession p) = (s.keepSession p).answer st →
      exec (row.command p tag params (goodCrc row.code tag params)) s
        = .next ((s.keepSession p).afterReply p row.code tag params st []) := by
    intro st hP hrule
    rw [hq.exec, ← hq.code, State.clientRequest_decided hreach hmax hlq hrq hP hrule]
    rfl
  refine ⟨fun hstatus hopen hfetch ha => ?_, fun hlow hhigh ha hn => ?_⟩
  · rw [← hq.code] at hstatus hopen hfetch
    have hS := clientCatalogue_sessionRequest hq.mem hstatus hopen hfetch p hlq hrq
    have hrule := hS.noSession (s.keepSession p) ((s.attached_keepSession p p).trans ha)
    rw [answered _ hS.portFree hrule, State.keepSession_of_not_attached ha]
  · rw [← hq.code] at hlow hhigh
    have hS := clientCatalogue_sessionRequest hq.mem (fun e => absurd (e ▸ hlow) (by decide))
      (fun e => absurd (e ▸ hlow) (by decide)) (fun e => absurd (e ▸ hhigh) (by decide)) p hlq hrq
    exact answered _ hS.portFree
      (hS.noResource hlow hhigh _ ((s.attached_keepSession p p).trans ha) hn)

/-! CLAIM -/

section
variable {s : State} {p : Client} {r : Res}

theorem claimRule_eq (ha : s.attached p = true) (m : Mode) (h1 h0 w1 w0 : Byte) :
    claimRule p [numberByte r, m.claimCode, h1, h0, w1, w0] s
      = s.checked (s.claimChecks p r m)
          (if s.grantableNow r m then s.grantNow r p m (half h1 h0)
           else
            s.waitFor { resource := r, client := p, kind := m.waitKind, hold := half h1 h0 }
              (half w1 w0) (fun i => s.queue r ++ [i]) ((s.queue r).length + 1)) := by
  unfold claimRule
  dsimp only
  rw [modeOf_claimCode]
  exact State.withResource_of_attached ha r _

theorem claimRequest_inRange (r : Res) (m : Mode) (h1 h0 w1 w0 : Byte) :
    claimRequest.inRange [numberByte r, m.claimCode, h1, h0, w1, w0] = true := by
  cases m <;> rfl

/-- A CLAIM that reaches its owner: its checks, on a state that differs from `s` in its deadlines
alone, and what follows them. -/
theorem execClaim_decided {tag : Byte} (hreach : s.reaches p tag) (ha : s.attached p = true)
    (m : Mode) (h1 h0 w1 w0 : Byte) {d : Decision}
    (hd : (s.keepSession p).checked (s.claimChecks p r m)
        (if s.grantableNow r m then (s.keepSession p).grantNow r p m (half h1 h0)
         else
          (s.keepSession p).waitFor
            { resource := r, client := p, kind := m.waitKind, hold := half h1 h0 }
            (half w1 w0) (fun i => s.queue r ++ [i]) ((s.queue r).length + 1)) = d) :
    exec (.claim p tag [numberByte r, m.claimCode, h1, h0, w1, w0]
        (goodCrc 0x10 tag [numberByte r, m.claimCode, h1, h0, w1, w0])) s
      = .next (d.state.afterReply p 0x10 tag [numberByte r, m.claimCode, h1, h0, w1, w0] d.status
          d.payload) := by
  have hP : ∀ params, PortFree (claimRequest.rule p params) := portFree_claim p
  refine congrArg Host.Outcome.next (State.clientRequest_decided hreach (by decide) rfl
    (claimRequest_inRange r m h1 h0 w1 w0) (hP _)
    ((claimRule_eq ((s.attached_keepSession p p).trans ha) m h1 h0 w1 w0).trans ?_))
  rw [← hd]
  obtain ⟨l, hl⟩ := s.keepSession_eq p
  rw [hl]
  rfl

/-- The checks of TABLE 2-3 as the statements write them. -/
theorem State.claimChecks_eq (s : State) (c : Client) (r : Res) (m : Mode) :
    s.claimChecks c r m
      = [ ((s.record r).state != .offline, .offline),
          (!(s.record r).retirePending, .retiring),
          ((s.record r).attrs.mask.getLsbD c.val, .notPermitted),
          (match (s.record r).attrs.modes with
            | .none => false
            | .exclusiveOnly => m == .exclusive
            | .sharedOnly => m == .shared
            | .either => true, .modeRefused),
          (!s.holds r c, .alreadyHeld),
          (!s.waits r c, .alreadyWaiting),
          ((s.session c).involves r || decide ((s.session c).tally < 15), .quota),
          (s.nextToken != 0, .exhausted) ] := by
  unfold State.claimChecks
  dsimp only
  cases (s.record r).attrs.modes <;> cases m <;> rfl

/-- Settles O17: the request's checks are those of the statement. -/
theorem claimRefusedInOrder : Obligations.ClaimRefusedInOrder := by
  intro s p tag r m h1 h0 w1 w0 st hreach ha hf
  have hfail : firstFailing (s.claimChecks p r m) = some st := by
    rw [State.claimChecks_eq]
    exact hf
  exact execClaim_decided hreach ha m h1 h0 w1 w0 (State.checked_of_fail hfail)

/-- Settles O15. -/
theorem claimGrantedAtOnce : Obligations.ClaimGrantedAtOnce := by
  intro s p tag r m h1 h0 w1 w0 hreach ha hretire hmask hmodes hholds hwaits hquota htoken hstate
  have hdefined : (s.record r).state ≠ .offline := by
    rcases hstate with h | ⟨h, -⟩ <;> simp [h]
  have hpass : firstFailing (s.claimChecks p r m) = none := by
    rw [State.claimChecks_eq, firstFailing_eq_none]
    simp only [List.forall_mem_cons, List.not_mem_nil, false_imp_iff, implies_true, and_true]
    refine ⟨bne_iff_ne.mpr hdefined, by rw [hretire]; rfl, hmask, hmodes, by rw [hholds]; rfl,
      by rw [hwaits]; rfl, ?_, bne_iff_ne.mpr htoken⟩
    simpa using hquota
  refine (execClaim_decided hreach ha m h1 h0 w1 w0
    ((State.checked_of_pass hpass).trans (if_pos (State.grantableNow_iff.mpr hstate)))).trans ?_
  obtain ⟨l, hl⟩ := s.keepSession_eq p
  unfold State.grantNow
  rw [State.grant_eq, hl]
  rfl

theorem SameLeases.settled {t : State} (e : SameLeases s t) (h : s.settled r = true) :
    t.settled r = true := by
  rw [State.settled_iff] at h ⊢
  simpa only [e.record, e.queue, e.exhausted, e.entry] using h

/-- An entry at the tail leaves the resource settled, unless it is the only one and could be granted
at once. -/
theorem State.settled_allocate_tail (hp : s.PoolWf) (hs : s.settled r = true) {i : PoolIx}
    {e : WaitEntry} (wait : Ticks) (he : e.resource = r) (free : s.entry i = none)
    (alone : s.queue r = [] → (s.record r).state.grants = true →
      (s.record r).compatible e = false) :
    (s.allocate i e (s.queue r ++ [i]) wait).settled r = true := by
  subst he
  rw [State.settled_iff, State.record_allocate, State.queue_allocate, if_pos rfl]
  unfold State.exhausted
  rw [State.nextToken_allocate]
  refine (State.settled_iff.mp hs).imp id ?_
  rintro (hg | hc)
  · exact .inl hg
  cases hq : s.queue e.resource with
  | nil =>
    cases hg : (s.record e.resource).state.grants with
    | false => exact .inl rfl
    | true =>
      refine .inr fun j hj e' he' => ?_
      obtain rfl : i = j := by simpa using hj
      rw [State.entry_allocate, if_pos rfl] at he'
      exact Option.some.inj he' ▸ alone hq hg
  | cons j rest =>
    refine .inr fun k hk e' he' => ?_
    obtain rfl : j = k := by simpa using hk
    obtain ⟨old, hold, -⟩ := hp.entry_of_mem (r := e.resource) (i := j) (by simp [hq])
    have hji : j ≠ i := fun h => by rw [h, free] at hold; cases hold
    rw [State.entry_allocate, if_neg hji] at he'
    exact hc j (by simp [hq]) e' he'

/-- A claim that does not join a SHARED record waits where the grant rule may grant (R31). -/
theorem Record.Wf.claim_incompatible {x : Record} (h : x.Wf) (hidle : x.state ≠ .idle)
    (hg : x.state.grants = true) {m : Mode} (hjoin : ¬(x.heldMode = some .shared ∧ m = .shared))
    {e : WaitEntry} (hk : e.kind = m.waitKind) : x.compatible e = false := by
  have hheld : x.state = .held := (RecordState.grants_iff.mp hg).resolve_left hidle
  have hempty : x.holders.isEmpty = false :=
    List.isEmpty_eq_false_iff.mpr (h.1.mpr (.inl hheld))
  unfold Record.compatible
  rw [hk]
  cases m with
  | exclusive => exact hempty
  | shared =>
    have hmode : x.heldMode ≠ some .shared := fun e => hjoin ⟨e, rfl⟩
    show (x.holders.isEmpty || x.heldMode == some .shared) = false
    rw [hempty, beq_eq_false_iff_ne.mpr hmode]
    rfl

/-- Settles O16: BUSY and POOL FULL are read off the request; a queued claim leaves its resource
settled, so the grant rule that follows grants nothing. -/
theorem claimWaitsOrIsRefused : Obligations.ClaimWaitsOrIsRefused := by
  intro s p tag r m h1 h0 w1 w0 hrecords hpool hqueues hreach ha hpass hidle hjoin
  have hlater : ¬s.grantableNow r m = true := fun h =>
    (State.grantableNow_iff.mp h).elim hidle hjoin
  have waiting : ∀ d, (s.keepSession p).waitFor
      { resource := r, client := p, kind := m.waitKind, hold := half h1 h0 } (half w1 w0)
      (fun i => s.queue r ++ [i]) ((s.queue r).length + 1) = d → _ := fun d hd =>
    execClaim_decided (r := r) hreach ha m h1 h0 w1 w0
      (((State.checked_of_pass hpass).trans (if_neg hlater)).trans hd)
  have hentry : ∀ i, (s.keepSession p).entry i = s.entry i := (s.keepSession_sameLeases p).entry
  refine ⟨fun hw => waiting _ (if_pos hw), fun hw full => ?_, fun hw i free lowest => ?_⟩
  · have hnone : (s.keepSession p).freeIndex = none :=
      State.freeIndex_eq_none fun i => by rw [hentry]; exact full i
    refine (waiting _ ((if_neg hw).trans (by rw [hnone]))).trans ?_
    obtain ⟨l, hl⟩ := s.keepSession_eq p
    rw [hl]
    rfl
  · have hsome : (s.keepSession p).freeIndex = some i :=
      State.freeIndex_eq_some (by rw [hentry]; exact free) fun j hj => by
        rw [hentry]
        exact lowest j hj
    refine (waiting _ ((if_neg hw).trans (by rw [hsome]))).trans ?_
    have hkept := s.keepSession_sameLeases p
    have hsettled := State.settled_allocate_tail (hkept.poolWf hpool)
      (hkept.settled (hqueues.2 r)) (r := r)
      (e := { resource := r, client := p, kind := m.waitKind, hold := half h1 h0 }) (half w1 w0)
      rfl ((hentry i).trans free) fun hq hg => by
        rw [State.record_keepSession] at hg ⊢
        rw [hkept.queue] at hq
        exact (hrecords r).claim_incompatible hidle hg (fun ⟨hshared, hm⟩ => hjoin
          ⟨(RecordState.grants_iff.mp hg).resolve_left hidle, hshared, hm, hq⟩) rfl
    rw [hkept.queue] at hsettled
    dsimp only
    rw [State.grantRule_of_settled hsettled, State.allocate_eq _ (by simp)]
    obtain ⟨l, hl⟩ := s.keepSession_eq p
    rw [hl]
    cases m <;> rfl

/-! RENEW, DOWNGRADE and QUERY -/

/-- Settles O18: the two checks of R36, then the arming of the HOLD deadline alone. -/
theorem renewRearmsTheHold : Obligations.RenewRearmsTheHold := by
  intro s p tag r h1 h0 hreach ha
  have hP : ∀ params, PortFree (renewRequest.rule p params) := portFree_renew p
  obtain ⟨l, hl⟩ := s.keepSession_eq p
  have hrule : renewRequest.rule p [numberByte r, h1, h0] (s.keepSession p)
      = (s.keepSession p).checked
          [(s.holds r p, .notHeld), ((s.record r).state != .revoking, .revoking)]
          (((s.keepSession p).arm (.hold r p)
            (effectiveHold (s.record r).attrs (half h1 h0))).reply .ok
              (bytesOf 2 (effectiveHold (s.record r).attrs (half h1 h0)))) := by
    refine (State.withResource_of_attached ((s.attached_keepSession p p).trans ha) r _).trans ?_
    rw [hl]
    rfl
  split <;> rename_i hf
  · exact congrArg Host.Outcome.next
      (State.clientRequest_refused hreach (by decide) rfl rfl (hP _) hrule hf)
  · refine congrArg Host.Outcome.next
      ((State.clientRequest_accepted hreach (by decide) rfl rfl (hP _) hrule hf).trans ?_)
    rw [State.arm_eq, hl]
    rfl

/-- Settles O21: the four checks of R37; the lease stands, so the pair stays reported. -/
theorem downgradeKeepsTheLease : Obligations.DowngradeKeepsTheLease := by
  intro s p tag r hreach ha
  have hP : ∀ params, PortFree (downgradeRequest.rule p params) := portFree_downgrade p
  obtain ⟨l, hl⟩ := s.keepSession_eq p
  have hrule : downgradeRequest.rule p [numberByte r] (s.keepSession p)
      = (s.keepSession p).checked (s.downgradeChecks p r)
          (((((s.keepSession p).setRecord r
            { s.record r with heldMode := some .shared }).report r p).grantRule r).answer .ok) := by
    refine (State.withResource_of_attached ((s.attached_keepSession p p).trans ha) r _).trans ?_
    rw [hl]
    rfl
  split <;> rename_i hf
  · exact congrArg Host.Outcome.next
      (State.clientRequest_refused hreach (by decide) rfl rfl (hP _) hrule hf)
  · refine congrArg Host.Outcome.next
      ((State.clientRequest_accepted hreach (by decide) rfl rfl (hP _) hrule hf).trans ?_)
    have holds : s.holds r p = true := (firstFailing_eq_none.mp hf) _ (.head _)
    have lowered : ((s.keepSession p).setRecord r
        { s.record r with heldMode := some .shared }).holds r p = true := by
      rw [State.holds_setRecord, if_pos rfl]
      exact holds
    rw [State.report_eq (State.concerns_of_holds lowered), hl]
    rfl

theorem relationCode_eq (a b : Bool) :
    relationCode a b = if a then (if b then 3 else 1) else (if b then 2 else 0) := by
  cases a <;> cases b <;> rfl

/-- A client's wait is reported at the place of its first entry in the queue (R40). -/
theorem State.waitBytes_of_place (hp : s.PoolWf) {k : Nat}
    (h : (s.queue r).findIdx? (s.entryOf p) = some k) :
    ∃ i e, (s.queue r)[k]? = some i ∧ s.entry i = some e
      ∧ s.waitBytes r p
        = [e.kind.code, countByte (k + 1)] ++ bytesOf 2 (s.remaining (.wait i)) := by
  obtain ⟨hk, hown, hfirst⟩ := List.findIdx?_eq_some_iff_getElem.mp h
  have hwait : s.waitOf r p = some (s.queue r)[k] :=
    List.find?_eq_some_iff_getElem.mpr
      ⟨hown, k, hk, rfl, fun j hj => by simpa using hfirst j hj⟩
  obtain ⟨e, he, -⟩ := hp.entry_of_mem (List.getElem_mem hk)
  refine ⟨(s.queue r)[k], e, List.getElem?_eq_getElem hk, he, ?_⟩
  unfold State.waitBytes
  rw [hwait]
  dsimp only
  rw [he, (hp.1 r).idxOf_getElem k hk]

theorem State.waitBytes_of_no_place (h : (s.queue r).findIdx? (s.entryOf p) = none) :
    s.waitBytes r p = List.replicate 4 0 := by
  have hwait : s.waitOf r p = none :=
    List.find?_eq_none.mpr fun i hi => by simpa using List.findIdx?_eq_none_iff.mp h i hi
  unfold State.waitBytes
  rw [hwait]

/-- Settles O26: the payload part by part, on the state after the keepalive. -/
theorem queryReports : Obligations.QueryReports := by
  intro s p tag r hpool hreach ha
  have hP : ∀ params, PortFree (queryRequest.rule p params) := portFree_query p
  have hkept := s.keepSession_sameLeases p
  have hpoolKept := hkept.poolWf hpool
  obtain ⟨l, hl⟩ := s.keepSession_eq p
  have hrule : queryRequest.rule p [numberByte r] (s.keepSession p)
      = (s.keepSession p).checked
          [ ((s.record r).state != .offline, .offline),
            ((s.record r).attrs.mask.getLsbD p.val, .notPermitted) ]
          ((s.keepSession p).reply .ok ((s.keepSession p).queryBytes r p)) := by
    refine (State.withResource_of_attached ((s.attached_keepSession p p).trans ha) r _).trans ?_
    rw [hl]
    rfl
  split <;> rename_i hf
  · exact congrArg Host.Outcome.next
      (State.clientRequest_refused hreach (by decide) rfl rfl (hP _) hrule hf)
  · refine congrArg Host.Outcome.next
      ((State.clientRequest_accepted hreach (by decide) rfl rfl (hP _) hrule hf).trans ?_)
    refine congrArg ((s.keepSession p).afterReply p 0x16 tag [numberByte r] .ok) ?_
    have hwaits : (s.keepSession p).waits r p = s.waits r p := by rw [hl]; rfl
    have hentryOf : (s.keepSession p).entryOf p = s.entryOf p := by rw [hl]; rfl
    refine congrArg₂ (· ++ ·) (congrArg₂ (· ++ ·) ?_ ?_) ?_
    · rw [heldModeCode_reportedMode, length_holders, relationCode_eq]
      simp only [State.record_keepSession, State.holds_keepSession, hkept.queue, hwaits]
      refine congrArg₂ List.cons ?_ rfl
      cases (s.record r).state <;> rfl
    · unfold State.leaseBytes
      rw [State.record_keepSession]
      cases (s.record r).lease p <;> rfl
    · cases hk : (s.queue r).findIdx? (s.entryOf p) with
      | none =>
        exact State.waitBytes_of_no_place (by rw [hkept.queue, hentryOf]; exact hk)
      | some k =>
        obtain ⟨i, e, hi, he, hbytes⟩ := State.waitBytes_of_place (k := k) hpoolKept
          (by rw [hkept.queue, hentryOf]; exact hk)
        rw [hkept.queue] at hi
        rw [hkept.entry] at he
        rw [hbytes]
        dsimp only
        rw [hi]
        dsimp only
        rw [he, Option.map_some]
        cases e.kind <;> rfl

end

end Sys2Proof.Machine
end

section
/-! PROOF. The effective hold and the grant rule, head by head (R22, R24 to R28). -/

namespace Sys2Proof.Machine

/-! The effective hold (R22) -/

/-- What the hold starts from: the value asked for, or the default. -/
def startingHold (a : Attributes) (requested : Ticks) : Ticks :=
  if requested ≠ 0 then requested else a.defaultHold

theorem startingHold_of_ne_zero {a : Attributes} {h : Ticks} (hh : h ≠ 0) : startingHold a h = h :=
  if_pos hh

theorem startingHold_zero (a : Attributes) : startingHold a 0 = a.defaultHold :=
  if_neg fun h => h rfl

/-- Without a maximum hold, or within it, the hold is the one it starts from. -/
theorem effectiveHold_of_within {a : Attributes} {h : Ticks}
    (hw : a.maxHold = 0 ∨ (startingHold a h ≠ 0 ∧ startingHold a h ≤ a.maxHold)) :
    effectiveHold a h = startingHold a h := by
  refine if_neg fun ⟨hmax, hover⟩ => ?_
  rcases hw with hz | ⟨hne, hle⟩
  · exact hmax hz
  · exact hover.elim hne fun hlt => absurd hle (BitVec.not_le.mpr hlt)

/-- Without limit, or above the maximum hold, the hold is the maximum. -/
theorem effectiveHold_of_over {a : Attributes} {h : Ticks} (hmax : a.maxHold ≠ 0)
    (ho : startingHold a h = 0 ∨ a.maxHold < startingHold a h) : effectiveHold a h = a.maxHold :=
  if_pos ⟨hmax, ho⟩

/-! Grants from the queue -/

section
variable {s : State}

theorem State.clock_removeEntry (s : State) (i : PoolIx) : (s.removeEntry i).clock = s.clock :=
  (s.removeEntry_frame i).outside.1

/-- The HOLD deadline of a lease granted from the queue is armed from the entry's hold and the
attributes at the grant (R22, R23). -/
theorem State.deadlines_grantEntry (s : State) (r : Res) (i : PoolIx) (e : WaitEntry) :
    (s.grantEntry r i e).deadlines
      = ((s.removeEntry i).arm (.hold r e.client)
          (effectiveHold (s.record r).attrs e.hold)).deadlines := by
  unfold State.grantEntry
  show ((s.removeEntry i).grant r e.client e.kind.mode e.hold).deadlines = _
  rw [State.deadlines_grant, State.record_removeEntry]

theorem State.deadlineOf_congr {t : State} (h : t.deadlines = s.deadlines) (id : DeadlineId) :
    t.deadlineOf id = s.deadlineOf id := by
  unfold State.deadlineOf
  rw [h]

/-- Settles O5. -/
theorem effectiveHoldCases : Obligations.EffectiveHoldCases := by
  intro a h s r i e
  refine ⟨fun hmax hh => ?_, fun hmax hh => ?_, fun _ hh hle => ?_, fun hmax hh hlt => ?_,
    fun hmax hh hd => ?_, fun _ hh hd hle => ?_, fun hmax hh hlt => ?_, fun hz => ?_, fun hz => ?_⟩
  · rw [effectiveHold_of_within (.inl hmax), startingHold_of_ne_zero hh]
  · rw [effectiveHold_of_within (.inl hmax), hh, startingHold_zero]
  · rw [effectiveHold_of_within (.inr (by rw [startingHold_of_ne_zero hh]; exact ⟨hh, hle⟩)),
      startingHold_of_ne_zero hh]
  · exact effectiveHold_of_over hmax (.inr (by rw [startingHold_of_ne_zero hh]; exact hlt))
  · exact effectiveHold_of_over hmax (.inl (by rw [hh, startingHold_zero]; exact hd))
  · rw [effectiveHold_of_within (.inr (by rw [hh, startingHold_zero]; exact ⟨hd, hle⟩)), hh,
      startingHold_zero]
  · exact effectiveHold_of_over hmax (.inr (by rw [hh, startingHold_zero]; exact hlt))
  · rw [State.deadlineOf_congr (s.deadlines_grantEntry r i e), hz]
    exact State.deadlineOf_disarm_self _ _
  · rw [State.deadlineOf_congr (s.deadlines_grantEntry r i e), State.deadlineOf_arm_self _ _ hz,
      State.clock_removeEntry]

/-! The grant rule (R24 to R28) -/

/-- The head is compatible, kind by kind (R25). -/
theorem Record.compatible_iff {x : Record} {e : WaitEntry} :
    x.compatible e = true
      ↔ (e.kind = .exclusive ∧ x.holders = [])
        ∨ (e.kind = .shared ∧ (x.holders = [] ∨ x.heldMode = some .shared))
        ∨ (e.kind = .upgrade ∧ x.holders = [e.client]) := by
  unfold Record.compatible
  cases e.kind <;> simp

/-- The report of a grant replaces one of the same pair before it. -/
theorem State.grant_report (s : State) (r : Res) (c : Client) (m : Mode) (hold : Ticks) :
    (s.report r c).grant r c m hold = s.grant r c m hold := by
  have hsession : (s.report r c).session c = (s.session c).setInvolves r (s.concerns r c) :=
    s.session_setSession_self c _
  have hsessions : (s.report r c).sessions
      = Vec.set s.sessions c ((s.session c).setInvolves r (s.concerns r c)) := rfl
  rw [State.grant_eq, State.grant_eq, hsession, hsessions, Session.setInvolves_setInvolves,
    Vec.set_set]
  rfl

/-- A grant from the queue, field by field (R26, R28). -/
theorem State.grantEntry_eq {i : PoolIx} {e : WaitEntry} (he : s.entry i = some e) :
    s.grantEntry e.resource i e
      = { s with
          queues := Vec.set s.queues e.resource ((s.queue e.resource).erase i)
          entries := Vec.set s.entries i none
          records := Vec.set s.records e.resource
            { s.record e.resource with
              state := .held
              heldMode := some e.kind.mode
              slots := Vec.set (s.record e.resource).slots e.client
                (some { token := s.nextToken, grantedAt := s.clock }) }
          nextToken := s.nextToken + 1
          deadlines := armedList s.clock (.hold e.resource e.client)
            (effectiveHold (s.record e.resource).attrs e.hold)
            (withoutDeadline (.wait i) s.deadlines)
          sessions := Vec.set s.sessions e.client
            ((s.session e.client).setInvolves e.resource true)
          notices := Vec.set s.notices e.client
            { s.noticeQueue e.client with
              queue := enqueueNotice e.resource (.granted s.nextToken)
                (s.noticeQueue e.client).queue }
          supervisor := s.supervisor.afterToken s.nextToken } := by
  unfold State.grantEntry
  rw [State.removeEntry_of_entry he, State.grant_report, State.grant_eq]
  rfl

theorem WaitKind.mode_eq (k : WaitKind) :
    k.mode = if k = .shared then .shared else .exclusive := by
  cases k <;> rfl

/-- Where the rule may grant, a compatible head is granted and the rule runs on from there. -/
theorem State.grantRule_of_compatible {i : PoolIx} {e : WaitEntry} {rest : List PoolIx}
    (he : s.entry i = some e) (hq : s.queue e.resource = i :: rest)
    (hg : (s.record e.resource).state.grants = true) (hx : s.exhausted = false)
    (hc : (s.record e.resource).compatible e = true) :
    s.grantRule e.resource = (s.grantEntry e.resource i e).grantRule e.resource := by
  have hqueue : (s.grantEntry e.resource i e).queue e.resource = rest := by
    rw [State.queue_grantEntry, State.queue_removeEntry he, if_pos rfl, hq, List.erase_cons_head]
  rw [State.grantRule_of_grants hg, hq, State.grantHeads_cons_granted he hx hc,
    State.grantRule_of_grants (s.grants_grantEntry e.resource i e), hqueue]

/-- Settles O52. -/
theorem grantRuleGrantsHeadByHead : Obligations.GrantRuleGrantsHeadByHead := by
  intro s r
  refine ⟨?_, fun i hi e he hk => ?_, fun i hi e he hr hs ht hk => ?_⟩
  · rintro (⟨hidle, hheld⟩ | hq | ht)
    · refine State.grantRule_of_not_grants (Bool.eq_false_of_not_eq_true fun hg => ?_)
      exact (RecordState.grants_iff.mp hg).elim hidle hheld
    · exact State.grantRule_of_settled (State.settled_of_queue_nil hq)
    · exact State.grantRule_of_exhausted (beq_of_eq ht)
  · refine State.grantRule_of_settled (State.settled_iff.mpr (.inr (.inr fun j hj e' he' => ?_)))
    obtain rfl : i = j := Option.some.inj (hi.symm.trans hj)
    obtain rfl : e = e' := Option.some.inj (he.symm.trans he')
    refine Bool.eq_false_of_not_eq_true fun hc => ?_
    rcases Record.compatible_iff.mp hc with ⟨h, hn⟩ | ⟨h, hn⟩ | ⟨h, hn⟩ <;> rw [h] at hk
    · exact hk hn
    · exact hn.elim hk.1 hk.2
    · exact hk hn
  · subst hr
    obtain ⟨rest, hq⟩ := List.head?_eq_some_iff.mp hi
    have hc : (s.record e.resource).compatible e = true := by
      rw [Record.compatible_iff]
      cases hkind : e.kind <;> rw [hkind] at hk <;> simp [hk]
    rw [State.grantRule_of_compatible he hq (RecordState.grants_iff.mpr hs)
      (beq_eq_false_iff_ne.mpr ht) hc, State.grantEntry_eq he, hq, List.erase_cons_head,
      WaitKind.mode_eq]
    rfl

end

end Sys2Proof.Machine
end

section
/-! PROOF. The release path (R33, R34): how a lease ends by RELEASE or by HOLD expiry, with the
client's UPGRADE entry before it (R35, R41, R42). -/

namespace Sys2Proof.Machine

/-! What the holders of a record say of its slots -/

theorem Record.slots_of_no_holders {x : Record} (h : x.holders = []) :
    x.slots = Vector.replicate 4 none := by
  refine Vec.ext fun c => ?_
  rw [Vec.get_replicate]
  by_contra hne
  have hc : c ∈ x.holders := mem_holders.mpr (Option.isSome_iff_ne_none.mpr hne)
  rw [h] at hc
  cases hc

theorem Record.holders_vacated_iff {x : Record} {c : Client} (hc : c ∈ x.holders) :
    (x.setLease c none).holders = [] ↔ x.holders = [c] := by
  rw [Record.holders_setLease_none, List.erase_eq_nil_iff]
  exact or_iff_right (List.ne_nil_of_mem hc)

/-! After the last holder -/

section
variable {s : State}

/-- What R34 does reads nothing of the slots. -/
theorem State.afterLastHolder_setSlots (s : State) (r : Res) (v : Vector (Option Lease) 4) :
    (s.setRecord r { s.record r with slots := v }).afterLastHolder r = s.afterLastHolder r := by
  unfold State.afterLastHolder
  dsimp only
  rw [State.record_setRecord_self]
  have hrecords : (s.setRecord r { s.record r with slots := v }).records
      = Vec.set s.records r { s.record r with slots := v } := rfl
  rw [hrecords, Vec.set_set, Vec.set_set, Vec.set_set]
  rfl

/-- What follows once no holder is left, in the statements' terms (R34). -/
theorem State.lastHolderLeft_of_no_holders {r : Res} (h : (s.record r).holders = []) :
    s.lastHolderLeft r = s.afterLastHolder r :=
  State.lastHolderLeft_eq (Record.slots_of_no_holders h)

theorem withoutDeadline_withoutDeadline (id : DeadlineId) (l : List Deadline) :
    withoutDeadline id (withoutDeadline id l) = withoutDeadline id l := by
  unfold withoutDeadline
  rw [List.filter_filter]
  exact List.filter_congr fun d _ => Bool.and_self _

/-! The emptied slot -/

/-- The client's HOLD deadline is gone and the pair reported as it stands without the lease; the
slot is still to be emptied. -/
def State.leaving (s : State) (r : Res) (c : Client) : State :=
  { s with
    deadlines := withoutDeadline (.hold r c) s.deadlines
    sessions := Vec.set s.sessions c
      ((s.session c).setInvolves r (s.waits r c || s.unread r c)) }

/-- The client's slot emptied, field by field (R33). -/
theorem State.vacate_eq (s : State) (r : Res) (c : Client) :
    s.vacate r c
      = (s.leaving r c).setRecord r
          { s.record r with slots := Vec.set (s.record r).slots c none } := by
  have gone : (s.vacate r c).holds r c = false := by rw [State.holds_vacate, if_pos ⟨rfl, rfl⟩]
  refine (State.report_eq (b := s.waits r c || s.unread r c) ?_).trans rfl
  show ((s.vacate r c).holds r c || s.waits r c || s.unread r c) = _
  rw [gone, Bool.false_or]

/-- The report of an emptied slot replaces one of the same pair before it. -/
theorem State.vacate_report (s : State) (r : Res) (c : Client) :
    (s.report r c).vacate r c = s.vacate r c := by
  have hsession : (s.report r c).session c = (s.session c).setInvolves r (s.concerns r c) :=
    s.session_setSession_self c _
  have hsessions : (s.report r c).sessions
      = Vec.set s.sessions c ((s.session c).setInvolves r (s.concerns r c)) := rfl
  rw [State.vacate_eq, State.vacate_eq]
  unfold State.leaving
  rw [hsession, hsessions, Session.setInvolves_setInvolves, Vec.set_set]
  rfl

/-- The release path through the emptied slot (R33). -/
theorem State.endLease_eq (s : State) (r : Res) (c : Client) (quiet : Bool) :
    s.endLease r c quiet
      = if ((s.vacate r c).record r).holders.isEmpty then (s.vacate r c).lastHolderLeft r
        else if ((s.vacate r c).record r).state = .held ∧ quiet = false then
          (s.vacate r c).grantRule r
        else s.vacate r c := rfl

theorem State.endLease_report (s : State) (r : Res) (c : Client) (quiet : Bool) :
    (s.report r c).endLease r c quiet = s.endLease r c quiet := by
  rw [State.endLease_eq, State.endLease_eq, State.vacate_report]

/-- The last lease ends, in the statements' terms (R33, R34). -/
theorem State.endLease_sole {r : Res} {c : Client} (h : (s.record r).holders = [c])
    (quiet : Bool) :
    s.endLease r c quiet = (s.leaving r c).afterLastHolder r := by
  have hc : c ∈ (s.record r).holders := by rw [h]; exact List.mem_singleton_self c
  have hlast := (Record.holders_vacated_iff hc).mpr h
  have hnone : ((s.vacate r c).record r).holders = [] := by
    rw [State.record_vacate_self]
    exact hlast
  rw [State.endLease_of_last quiet hlast, State.lastHolderLeft_of_no_holders hnone,
    State.vacate_eq]
  exact (s.leaving r c).afterLastHolder_setSlots r _

/-- A lease ends beside others, in the statements' terms (R33). -/
theorem State.endLease_beside {r : Res} {c : Client} (hc : s.holds r c = true)
    (h : (s.record r).holders ≠ [c]) :
    s.endLease r c false
      = if (s.record r).state = .held then (s.vacate r c).grantRule r else s.vacate r c := by
  have hmore : ((s.record r).setLease c none).holders ≠ [] := fun e =>
    h ((Record.holders_vacated_iff (mem_holders.mpr hc)).mp e)
  rw [State.endLease_of_more false hmore]
  simp only [and_true]

/-! The client's UPGRADE entry -/

/-- What holds of the wait entries and the leases, apart from the sessions. -/
structure State.Waiters (s : State) : Prop where
  pool : s.PoolWf
  one : s.OneWaitEach
  upgrades : s.UpgradesWf

theorem State.WaitersWf.waiters (h : s.WaitersWf) : s.Waiters := by
  obtain ⟨hpool, hone, hupgrades, -⟩ := h
  exact ⟨hpool, hone, hupgrades⟩

theorem SameLeases.entryOf {t : State} (e : SameLeases s t) (c : Client) (i : PoolIx) :
    t.entryOf c i = s.entryOf c i := by
  unfold State.entryOf
  rw [e.entry]

theorem SameLeases.isUpgrade {t : State} (e : SameLeases s t) (i : PoolIx) :
    t.isUpgrade i = s.isUpgrade i := by
  unfold State.isUpgrade
  rw [e.entry]

theorem SameLeases.waitsOn {t : State} (e : SameLeases s t) (i : PoolIx) :
    t.waitsOn i = s.waitsOn i := by
  unfold State.waitsOn
  rw [e.entry]

theorem SameLeases.waits {t : State} (e : SameLeases s t) (r : Res) (c : Client) :
    t.waits r c = s.waits r c := by
  unfold State.waits State.waitOf
  rw [e.queue, funext (e.entryOf c)]

theorem SameLeases.waiters {t : State} (e : SameLeases s t) (h : s.Waiters) : t.Waiters := by
  obtain ⟨hpool, hone, hkind, htail, hrevoking⟩ := h
  refine ⟨e.poolWf hpool, fun c i j => ?_, fun r c i => ?_, fun r i => ?_, fun r => ?_⟩
  · rw [e.entryOf, e.entryOf, e.waitsOn, e.waitsOn]
    exact hone c i j
  · rw [e.queue, e.entryOf, e.isUpgrade, e.holds]
    exact hkind r c i
  · rw [e.queue, e.isUpgrade]
    exact htail r i
  · rw [e.record, e.queue]
    intro hs i
    rw [e.isUpgrade]
    exact hrevoking r hs i

/-- A holder's only entry on its resource is its UPGRADE entry (R47). -/
theorem State.Waiters.upgradeOf_eq (h : s.Waiters) {r : Res} {c : Client}
    (hc : s.holds r c = true) : s.upgradeOf r c = s.waitOf r c := by
  obtain ⟨-, -, hkind, -⟩ := h
  refine List.find?_congr fun i hi => ?_
  cases ho : s.entryOf c i with
  | false => rfl
  | true => rw [hkind r c i hi ho, hc]; rfl

theorem State.Waiters.isSome_upgradeOf (h : s.Waiters) {r : Res} {c : Client}
    (hc : s.holds r c = true) : (s.upgradeOf r c).isSome = s.waits r c := by
  rw [h.upgradeOf_eq hc]
  rfl

/-- The client's entry on the resource is the one that a search of the queue finds (R49). -/
theorem State.Waiters.waitOf_eq (h : s.Waiters) {r : Res} {c : Client} {i : PoolIx}
    (hi : i ∈ s.queue r) (ho : s.entryOf c i = true) : s.waitOf r c = some i := by
  obtain ⟨j, hj⟩ := Option.isSome_iff_exists.mp (State.waits_iff.mpr ⟨i, hi, ho⟩)
  have hmem : j ∈ s.queue r := List.mem_of_find?_eq_some hj
  have hown : s.entryOf c j = true := List.find?_some hj
  rw [hj, h.one c j i hown ho (((h.pool.2 r j).mp hmem).trans ((h.pool.2 r i).mp hi).symm)]

theorem State.upgradeOf_of_not_waits {r : Res} {c : Client} (h : s.waits r c = false) :
    s.upgradeOf r c = none := by
  refine List.find?_eq_none.mpr fun i hi => ?_
  rw [State.not_waits_iff.mp h i hi]
  nofun

theorem State.removeUpgrade_of_not_waits {r : Res} {c : Client} (h : s.waits r c = false) :
    s.removeUpgrade r c = s := by
  unfold State.removeUpgrade
  rw [State.upgradeOf_of_not_waits h]

/-- A holder's entry, wherever it stands in the queue, is the one that goes before its lease. -/
theorem State.Waiters.removeUpgrade_eq (h : s.Waiters) {r : Res} {c : Client}
    (hc : s.holds r c = true) {i : PoolIx} (hi : i ∈ s.queue r) (ho : s.entryOf c i = true) :
    s.removeUpgrade r c = (s.withoutEntry r i).report r c := by
  obtain ⟨e, he, hr⟩ := h.pool.entry_of_mem hi
  have hclient : e.client = c := by
    rw [State.entryOf_of_entry he] at ho
    exact eq_of_beq ho
  unfold State.removeUpgrade
  rw [h.upgradeOf_eq hc, h.waitOf_eq hi ho]
  dsimp only
  rw [State.removeEntry_eq he (h.pool.1 e.resource), hr, hclient]

theorem State.entryOf_withoutEntry (s : State) (r : Res) (i : PoolIx) (c : Client) (j : PoolIx) :
    (s.withoutEntry r i).entryOf c j = (!decide (j = i) && s.entryOf c j) := by
  have he : (s.withoutEntry r i).entry j = if j = i then none else s.entry j :=
    Vec.get_set _ _ _ _
  unfold State.entryOf
  rw [he]
  by_cases hj : j = i <;> simp [hj]

theorem State.queue_withoutEntry (s : State) (r : Res) (i : PoolIx) :
    (s.withoutEntry r i).queue r = (s.queue r).filter fun j => j != i := by
  refine (Vec.get_set _ _ _ _).trans (if_pos rfl)

/-- Without its entry the client waits no more (R49). -/
theorem State.Waiters.not_waits_withoutEntry (h : s.Waiters) {r : Res} {c : Client} {i : PoolIx}
    (hi : i ∈ s.queue r) (ho : s.entryOf c i = true) : (s.withoutEntry r i).waits r c = false := by
  refine State.not_waits_iff.mpr fun j hj => ?_
  rw [State.queue_withoutEntry] at hj
  obtain ⟨hmem, hne⟩ := List.mem_filter.mp hj
  rw [State.entryOf_withoutEntry]
  cases hown : s.entryOf c j with
  | false => exact Bool.and_false _
  | true =>
    have hji := h.one c j i hown ho (((h.pool.2 r j).mp hmem).trans ((h.pool.2 r i).mp hi).symm)
    exact absurd hji (bne_iff_ne.mp hne)

theorem State.Waiters.not_waits_removeUpgrade (h : s.Waiters) {r : Res} {c : Client}
    (hc : s.holds r c = true) : (s.removeUpgrade r c).waits r c = false := by
  cases hw : s.waits r c with
  | false => rw [State.removeUpgrade_of_not_waits hw, hw]
  | true =>
    obtain ⟨i, hi, ho⟩ := State.waits_iff.mp hw
    rw [h.removeUpgrade_eq hc hi ho, (State.report_sameLeases _ r c).waits]
    exact h.not_waits_withoutEntry hi ho

theorem State.PoolWf.removeUpgrade (h : s.PoolWf) (r : Res) (c : Client) :
    (s.removeUpgrade r c).PoolWf := by
  unfold State.removeUpgrade
  split
  · exact h.removeEntry _
  · exact h

theorem State.removeUpgrade_elsewhere (h : s.PoolWf) (r : Res) (c : Client) :
    s.sameElsewhere (s.removeUpgrade r c) r := by
  unfold State.removeUpgrade
  split
  · rename_i i hi
    exact s.removeEntry_elsewhere (h.resource_of_mem r i (List.mem_of_find?_eq_some hi))
  · exact s.sameElsewhere_refl r

/-! What a client that does not wait gains -/

/-- On the resource the client has at most what it had: no new lease, no new entry, no HOLD deadline
that was not armed; and no notice has come. -/
structure GainsNothing (s t : State) (r : Res) (c : Client) : Prop where
  holds : t.holds r c = true → s.holds r c = true
  armed : t.armed (.hold r c) = true → s.armed (.hold r c) = true
  queue : ∀ i ∈ t.queue r, i ∈ s.queue r
  entries : ∀ i, t.entryOf c i = true → s.entryOf c i = true
  notices : t.noticeQueue c = s.noticeQueue c

section
variable {t : State} {r : Res} {c : Client}

theorem GainsNothing.refl (s : State) (r : Res) (c : Client) : GainsNothing s s r c :=
  ⟨id, id, fun _ => id, fun _ => id, rfl⟩

theorem GainsNothing.trans {u : State} (h : GainsNothing s t r c) (k : GainsNothing t u r c) :
    GainsNothing s u r c :=
  ⟨h.holds ∘ k.holds, h.armed ∘ k.armed, fun i => h.queue i ∘ k.queue i,
    fun i => h.entries i ∘ k.entries i, k.notices.trans h.notices⟩

theorem GainsNothing.not_waits (h : GainsNothing s t r c) (hw : s.waits r c = false) :
    t.waits r c = false := by
  refine State.not_waits_iff.mpr fun i hi => ?_
  have hno := State.not_waits_iff.mp hw i (h.queue i hi)
  exact Bool.eq_false_of_not_eq_true fun e => absurd ((h.entries i e).symm.trans hno) nofun

theorem GainsNothing.not_holds (h : GainsNothing s t r c) (hh : s.holds r c = false) :
    t.holds r c = false :=
  Bool.eq_false_of_not_eq_true fun e => absurd ((h.holds e).symm.trans hh) nofun

theorem GainsNothing.not_armed (h : GainsNothing s t r c) (ha : s.armed (.hold r c) = false) :
    t.armed (.hold r c) = false :=
  Bool.eq_false_of_not_eq_true fun e => absurd ((h.armed e).symm.trans ha) nofun

theorem SameLeases.gainsNothing (e : SameLeases s t) (r : Res) (c : Client)
    (ha : t.armed (.hold r c) = true → s.armed (.hold r c) = true)
    (hn : t.noticeQueue c = s.noticeQueue c) : GainsNothing s t r c :=
  ⟨fun h => (e.holds r c).symm.trans h, ha, fun i hi => by rwa [← e.queue],
    fun i h => (e.entryOf c i).symm.trans h, hn⟩

theorem State.disarm_gainsNothing (s : State) (id : DeadlineId) (r : Res) (c : Client) :
    GainsNothing s (s.disarm id) r c :=
  (s.disarm_sameLeases id).gainsNothing r c
    (fun h => by
      rw [State.armed_disarm] at h
      split at h
      · cases h
      · exact h) rfl

theorem State.arm_gainsNothing (s : State) {id : DeadlineId} (n : Ticks)
    (h : DeadlineId.hold r c ≠ id) : GainsNothing s (s.arm id n) r c :=
  (s.arm_sameLeases id n).gainsNothing r c
    (fun ha => by
      rw [State.armed_arm, if_neg h] at ha
      exact ha)
    (by rw [State.arm_eq]; rfl)

theorem State.setRecord_gainsNothing (s : State) {x : Record}
    (h : (x.lease c).isSome = true → s.holds r c = true) :
    GainsNothing s (s.setRecord r x) r c :=
  ⟨fun hh => h (by rw [State.holds_setRecord, if_pos rfl] at hh; exact hh), id, fun _ => id,
    fun _ => id, rfl⟩

theorem State.grantEntry_gainsNothing {i : PoolIx} {e : WaitEntry} (he : s.entry i = some e)
    (hr : e.resource = r) (hc : e.client ≠ c) : GainsNothing s (s.grantEntry r i e) r c := by
  refine ⟨fun h => ?_, fun h => ?_, fun j hj => ?_, fun j hj => ?_, ?_⟩
  · unfold State.grantEntry at h
    rw [(State.notify_sameLeases _ _ _ _).holds, State.holds_grant,
      if_neg fun e' => hc e'.2.symm] at h
    unfold State.holds at h ⊢
    rwa [State.record_removeEntry] at h
  · have hne : DeadlineId.hold r c ≠ .hold r e.client := fun e' =>
      hc (DeadlineId.hold.inj e').2.symm
    rw [State.armed_congr (s.deadlines_grantEntry r i e), State.armed_arm, if_neg hne,
      State.removeEntry_of_entry he] at h
    have hd : (s.disarm (.wait i)).armed (.hold r c) = true := h
    rwa [State.armed_disarm, if_neg nofun] at hd
  · rw [State.queue_grantEntry, State.queue_removeEntry he] at hj
    split at hj
    · rename_i hk
      rw [hk]
      exact List.mem_of_mem_erase hj
    · exact hj
  · unfold State.entryOf at hj ⊢
    rw [State.grantEntry_entry, State.entry_removeEntry] at hj
    by_cases hji : j = i
    · rw [if_pos hji] at hj
      cases hj
    · rwa [if_neg hji] at hj
  · subst hr
    rw [State.grantEntry_eq he]
    exact (Vec.get_set _ _ _ _).trans (if_neg fun e' => hc e'.symm)

/-- A run of the grant rule over other clients' entries. -/
theorem State.grantHeads_gainsNothing (q : List PoolIx)
    (hq : ∀ i ∈ q, ∀ e ∈ s.entry i, e.resource = r ∧ e.client ≠ c) :
    GainsNothing s (s.grantHeads r q) r c := by
  induction q generalizing s with
  | nil => exact .refl s r c
  | cons i rest ih =>
    by_cases stops : ∀ e ∈ s.entry i, s.exhausted = true ∨ (s.record r).compatible e = false
    · rw [State.grantHeads_cons_stopped stops]
      exact .refl s r c
    · push Not at stops
      obtain ⟨e, he, hx, hcomp⟩ := stops
      obtain ⟨hr, hc⟩ := hq i List.mem_cons_self e he
      rw [State.grantHeads_cons_granted he (Bool.eq_false_of_not_eq_true hx)
        (Bool.eq_true_of_not_eq_false hcomp)]
      refine (State.grantEntry_gainsNothing he hr hc).trans (ih fun j hj e' he' => ?_)
      rw [State.grantEntry_entry] at he'
      exact hq j (List.mem_cons_of_mem _ hj) e' (s.removeEntry_entry i j e' he')

/-- The grant rule gives a client that does not wait nothing (R26). -/
theorem State.grantRule_gainsNothing (hp : s.PoolWf) (hw : s.waits r c = false) :
    GainsNothing s (s.grantRule r) r c := by
  unfold State.grantRule
  split
  · exact State.grantHeads_gainsNothing _ fun i hi e he =>
      ⟨hp.resource_of_mem r i hi e he, State.client_ne_of_not_waits hw hi he⟩
  · exact .refl s r c

theorem State.goOffline_gainsNothing (s : State) (r : Res) (c : Client) :
    GainsNothing s (s.goOffline r) r c :=
  s.setRecord_gainsNothing fun h => by rw [Record.cleared_lease] at h; cases h

/-- What follows the last holder gives a client that does not wait nothing (R34). -/
theorem State.lastHolderLeft_gainsNothing (hp : s.PoolWf) (hw : s.waits r c = false) :
    GainsNothing s (s.lastHolderLeft r) r c := by
  have hleft : SameLeases s (if (s.record r).state = .revoking then s.disarm (.grace r) else s)
      ∧ GainsNothing s (if (s.record r).state = .revoking then s.disarm (.grace r) else s) r c := by
    split
    · exact ⟨s.disarm_sameLeases _, s.disarm_gainsNothing _ r c⟩
    · exact ⟨.refl s, .refl s r c⟩
  unfold State.lastHolderLeft
  dsimp only
  generalize (if (s.record r).state = .revoking then s.disarm (.grace r) else s) = u at hleft ⊢
  obtain ⟨same, gains⟩ := hleft
  refine gains.trans ?_
  have keeps : ∀ x : Record, x.slots = (s.record r).slots →
      GainsNothing u (u.setRecord r x) r c := fun x hx =>
    u.setRecord_gainsNothing fun h => by
      rw [same.holds]
      unfold State.holds
      unfold Record.lease at h ⊢
      rwa [← hx]
  split
  · exact (keeps { s.record r with state := .draining, heldMode := none, deadline := .guard }
      rfl).trans (State.arm_gainsNothing _ _ nofun)
  · split
    · exact u.goOffline_gainsNothing r c
    · refine (keeps { s.record r with state := .idle, heldMode := none, deadline := .absent }
        rfl).trans (State.grantRule_gainsNothing ?_ ?_)
      · exact (same.poolWf hp).congr (fun _ => rfl) fun _ => rfl
      · exact (same.waits r c).trans hw

/-! A lease that ends -/

/-- What the end of a client's lease on a resource leaves: nothing of the client's lease and wait on
the resource, every other lease, the client's notices, and all that is not the resource's. -/
structure LeaseEnded (s t : State) (r : Res) (c : Client) : Prop where
  not_holds : t.holds r c = false
  not_waits : t.waits r c = false
  not_armed : t.armed (.hold r c) = false
  others : ∀ d, d ≠ c → s.holds r d = true → t.holds r d = true
  notices : t.noticeQueue c = s.noticeQueue c
  elsewhere : s.sameElsewhere t r
  frame : LeaseFrame s t

theorem State.holds_grantRule {d : Client} (h : s.holds r d = true) :
    (s.grantRule r).holds r d = true := by
  unfold State.grantRule
  split
  · refine State.grantHeads_keeps (P := fun u : State => u.holds r d = true)
      (fun u i e _ _ _ hu => ?_) _ h
    unfold State.grantEntry
    rw [(State.notify_sameLeases _ _ _ _).holds, State.holds_grant]
    unfold State.holds at hu ⊢
    rw [State.record_removeEntry, hu, ite_self]
  · exact h

theorem State.endLease_ended (hp : s.PoolWf) (hw : s.waits r c = false) (hc : s.holds r c = true) :
    LeaseEnded s (s.endLease r c false) r c := by
  have hv := s.vacate_sameLeases r c
  have hpool : (s.vacate r c).PoolWf := hp.congr (s.queue_vacate r c) (s.entry_vacate r c)
  have hwaits : (s.vacate r c).waits r c = false := (hv.waits r c).trans hw
  have hholds : (s.vacate r c).holds r c = false := by rw [State.holds_vacate, if_pos ⟨rfl, rfl⟩]
  have harmed : (s.vacate r c).armed (.hold r c) = false := State.armed_disarm_self _ _
  have ended : ∀ t, s.endLease r c false = t → GainsNothing (s.vacate r c) t r c →
      (∀ d, d ≠ c → s.holds r d = true → t.holds r d = true) →
      LeaseEnded s (s.endLease r c false) r c := by
    intro t ht gains others
    refine ⟨?_, ?_, ?_, ?_, ?_, s.endLease_elsewhere c false (hp.resource_of_mem r),
      s.endLease_frame r c false⟩ <;> rw [ht]
    · exact gains.not_holds hholds
    · exact gains.not_waits hwaits
    · exact gains.not_armed harmed
    · exact others
    · exact gains.notices
  by_cases sole : (s.record r).holders = [c]
  · have hlast := (Record.holders_vacated_iff (mem_holders.mpr hc)).mpr sole
    refine ended _ (State.endLease_of_last false hlast)
      (State.lastHolderLeft_gainsNothing hpool hwaits) fun d hd hdh => ?_
    have hmem : d ∈ (s.record r).holders := mem_holders.mpr hdh
    rw [sole] at hmem
    exact absurd (List.mem_singleton.mp hmem) hd
  · have kept : ∀ d, d ≠ c → s.holds r d = true → (s.vacate r c).holds r d = true :=
      fun d hd hdh => by rwa [State.holds_vacate, if_neg fun e => hd e.2]
    have hbeside := State.endLease_beside hc sole
    split at hbeside
    · exact ended _ hbeside (State.grantRule_gainsNothing hpool hwaits) fun d hd hdh =>
        State.holds_grantRule (kept d hd hdh)
    · exact ended _ hbeside (.refl _ r c) kept

theorem State.noticeQueue_removeUpgrade (s : State) (r : Res) (c : Client) :
    (s.removeUpgrade r c).noticeQueue c = s.noticeQueue c := by
  unfold State.removeUpgrade State.removeEntry
  split
  · split <;> rfl
  · rfl

/-- The client's UPGRADE entry goes and then its lease ends (R35, R42). -/
theorem State.Waiters.leave (h : s.Waiters) (hc : s.holds r c = true) :
    LeaseEnded s ((s.removeUpgrade r c).endLease r c false) r c := by
  have hholds : ∀ d, (s.removeUpgrade r c).holds r d = s.holds r d := fun d => by
    unfold State.holds
    rw [State.record_removeUpgrade]
  have e := State.endLease_ended (h.pool.removeUpgrade r c) (h.not_waits_removeUpgrade hc)
    ((hholds c).trans hc)
  exact ⟨e.not_holds, e.not_waits, e.not_armed,
    fun d hd hdh => e.others d hd ((hholds d).trans hdh),
    e.notices.trans (s.noticeQueue_removeUpgrade r c),
    State.sameElsewhere_trans (State.removeUpgrade_elsewhere h.pool r c) e.elsewhere,
    (s.removeUpgrade_frame r c).trans e.frame⟩

end

end

/-! RELEASE (R35) -/

theorem State.keepSession_frame (s : State) (p : Client) : LeaseFrame s (s.keepSession p) := by
  unfold State.keepSession
  split
  · exact s.arm_frame _ _
  · exact .refl s

theorem State.noticeQueue_keepSession (s : State) (p c : Client) :
    (s.keepSession p).noticeQueue c = s.noticeQueue c := by
  obtain ⟨l, hl⟩ := s.keepSession_eq p
  rw [hl]
  rfl

theorem State.unread_keepSession (s : State) (p : Client) (r : Res) (c : Client) :
    (s.keepSession p).unread r c = s.unread r c := by
  unfold State.unread
  rw [State.noticeQueue_keepSession]

/-- The client ports after an answer follow from those before it. -/
theorem State.cpis_afterReply {s t : State} (h : t.cpis = s.cpis) (p : Client) (code tag : Byte)
    (params : List Byte) (st : Status) (payload : List Byte) :
    (t.afterReply p code tag params st payload).cpis
      = (s.afterReply p code tag params st payload).cpis := by
  unfold State.afterReply State.cpi
  dsimp only
  rw [h]

theorem withoutDeadline_comm (id k : DeadlineId) (l : List Deadline) :
    withoutDeadline id (withoutDeadline k l) = withoutDeadline k (withoutDeadline id l) := by
  unfold withoutDeadline
  rw [List.filter_filter, List.filter_filter]
  exact List.filter_congr fun d _ => Bool.and_comm _ _

section
variable {s : State} {p : Client} {tag : Byte} {r : Res}

theorem releaseRule_eq (ha : s.attached p = true) (r : Res) :
    releaseRequest.rule p [numberByte r] (s.keepSession p)
      = (s.keepSession p).checked [(s.holds r p, .notHeld)]
          ((((s.keepSession p).removeUpgrade r p).endLease r p false).reply .ok
            [flagByte (s.upgradeOf r p).isSome]) := by
  refine (State.withResource_of_attached ((s.attached_keepSession p p).trans ha) r _).trans ?_
  rw [State.holds_keepSession]
  obtain ⟨l, hl⟩ := s.keepSession_eq p
  rw [hl]
  rfl

/-- A RELEASE of a lease that reaches its owner. -/
theorem execRelease_held (hreach : s.reaches p tag) (ha : s.attached p = true)
    (hc : s.holds r p = true) :
    exec (.release p tag [numberByte r] (goodCrc 0x12 tag [numberByte r])) s
      = .next ((((s.keepSession p).removeUpgrade r p).endLease r p false).afterReply p 0x12 tag
          [numberByte r] .ok [flagByte (s.upgradeOf r p).isSome]) := by
  have hP : ∀ params, PortFree (releaseRequest.rule p params) := portFree_release p
  refine congrArg Host.Outcome.next (State.clientRequest_accepted hreach (by decide) rfl rfl (hP _)
    (releaseRule_eq ha r) ?_)
  rw [hc]
  rfl

/-- Without an entry of the client's own the release path is all that RELEASE runs. -/
theorem execRelease_alone (hreach : s.reaches p tag) (ha : s.attached p = true)
    (hc : s.holds r p = true) (hw : s.waits r p = false) :
    exec (.release p tag [numberByte r] (goodCrc 0x12 tag [numberByte r])) s
      = .next (((s.keepSession p).endLease r p false).afterReply p 0x12 tag [numberByte r] .ok
          [0]) := by
  have hkept := s.keepSession_sameLeases p
  rw [execRelease_held hreach ha hc, State.upgradeOf_of_not_waits hw,
    State.removeUpgrade_of_not_waits ((hkept.waits r p).trans hw)]
  rfl

theorem State.leaving_keepSession (hw : s.waits r p = false) :
    (s.keepSession p).leaving r p
      = { s.keepSession p with
          deadlines := withoutDeadline (.hold r p) (s.keepSession p).deadlines
          sessions := Vec.set s.sessions p ((s.session p).setInvolves r (s.unread r p)) } := by
  unfold State.leaving
  rw [(s.keepSession_sameLeases p).waits, hw, State.unread_keepSession, Bool.false_or]
  obtain ⟨l, hl⟩ := s.keepSession_eq p
  rw [hl]
  rfl

theorem State.not_armed_leaving (s : State) (r : Res) (c : Client) :
    (s.leaving r c).armed (.hold r c) = false := s.armed_disarm_self (.hold r c)

/-- Taking the entry of a leaving holder out of the queue and leaving are independent. -/
theorem State.leaving_withoutEntry {c : Client} {i : PoolIx}
    (hw : (s.withoutEntry r i).waits r c = false) :
    (s.withoutEntry r i).leaving r c
      = ({ s with
            deadlines := withoutDeadline (.hold r c) s.deadlines
            sessions := Vec.set s.sessions c ((s.session c).setInvolves r (s.unread r c)) }
          ).withoutEntry r i := by
  unfold State.leaving
  rw [hw, Bool.false_or, State.withoutEntry, withoutDeadline_comm]
  rfl

/-- Settles O19: the entry and the lease go by the release path on the state after the keepalive. -/
theorem releaseEndsTheLease : Obligations.ReleaseEndsTheLease := by
  intro s p tag r _ hwaiters hreach ha
  have hP : ∀ params, PortFree (releaseRequest.rule p params) := portFree_release p
  have hkept := s.keepSession_sameLeases p
  refine ⟨fun hc => ?_, fun hc => ?_, fun hc hw hbeside => ?_⟩
  · refine congrArg Host.Outcome.next (State.clientRequest_refused hreach (by decide) rfl rfl (hP _)
      (releaseRule_eq ha r) ?_)
    rw [hc]
    rfl
  · have e := (hkept.waiters hwaiters.waiters).leave ((s.holds_keepSession p r p).trans hc)
    have hexec := execRelease_held hreach ha hc
    generalize ((s.keepSession p).removeUpgrade r p).endLease r p false = t at e hexec
    have frame := (s.keepSession_frame p).trans e.frame
    refine ⟨_, hexec, e.not_holds, e.not_waits, e.not_armed,
      fun d hd hdh => e.others d hd ((s.holds_keepSession p r d).trans hdh),
      e.notices.trans (s.noticeQueue_keepSession p p), e.elsewhere, frame.outside, frame.stored,
      frame.framing, ?_⟩
    rw [State.cpis_afterReply frame.cpis, hwaiters.waiters.isSome_upgradeOf hc]
    rfl
  · rw [execRelease_alone hreach ha hc hw, State.endLease_beside
      ((s.holds_keepSession p r p).trans hc) (by rw [State.record_keepSession]; exact hbeside),
      State.vacate_eq, State.leaving_keepSession hw, State.record_keepSession]
    obtain ⟨l, hl⟩ := s.keepSession_eq p
    rw [hl]
    rfl

end

/-! R34, case by case -/

/-- The GRACE deadline of a revocation is gone (R34). -/
def State.graceOver (s : State) (r : Res) : State :=
  if (s.record r).state = .revoking then s.disarm (.grace r) else s

section
variable {s : State} {r : Res}

theorem State.graceOver_eq (s : State) (r : Res) :
    s.graceOver r
      = { s with
          deadlines :=
            if (s.record r).state = .revoking then withoutDeadline (.grace r) s.deadlines
            else s.deadlines } := by
  unfold State.graceOver
  split <;> rfl

theorem State.armed_graceOver (s : State) (r : Res) (k : DeadlineId) :
    (s.graceOver r).armed k
      = if (s.record r).state = .revoking ∧ k = .grace r then false else s.armed k := by
  unfold State.graceOver
  split
  · rename_i hs
    rw [State.armed_disarm]
    simp only [hs, true_and]
  · rename_i hs
    rw [if_neg fun e => hs e.1]

/-- With a guard time the record drains. -/
theorem State.afterLastHolder_drains (hg : (s.record r).attrs.guard ≠ 0) :
    s.afterLastHolder r
      = ((s.graceOver r).setRecord r
          { s.record r with
            state := .draining, heldMode := none, slots := Vector.replicate 4 none
            deadline := .guard }).arm (.guard r) (s.record r).attrs.guard := by
  rw [State.arm_eq, State.graceOver_eq]
  exact if_pos hg

/-- Without a guard time a record with retire pending goes OFFLINE. -/
theorem State.afterLastHolder_retires (hg : (s.record r).attrs.guard = 0)
    (hr : (s.record r).retirePending = true) :
    s.afterLastHolder r = (s.graceOver r).setRecord r Record.cleared := by
  rw [State.graceOver_eq]
  exact (if_neg fun e => e hg).trans (if_pos hr)

/-- Otherwise it is IDLE, and the grant rule runs. -/
theorem State.afterLastHolder_frees (hg : (s.record r).attrs.guard = 0)
    (hr : (s.record r).retirePending = false) :
    s.afterLastHolder r
      = ((s.graceOver r).setRecord r
          { s.record r with
            state := .idle, heldMode := none, slots := Vector.replicate 4 none
            deadline := .absent }).grantRule r := by
  rw [State.graceOver_eq]
  exact (if_neg fun e => e hg).trans (if_neg (by rw [hr]; nofun))

/-- The record that R34 writes. -/
def Record.afterLast (x : Record) : Record :=
  if x.attrs.guard ≠ 0 then
    { x with
      state := .draining, heldMode := none, slots := Vector.replicate 4 none, deadline := .guard }
  else if x.retirePending then Record.cleared
  else
    { x with
      state := .idle, heldMode := none, slots := Vector.replicate 4 none, deadline := .absent }

/-- Without waiters R34 writes the record and arms the guard time, which is 0 where it does not
drain; nothing else differs once the GRACE deadline is gone. -/
theorem State.afterLastHolder_of_queue_nil (hq : s.queue r = []) :
    ∃ l, s.afterLastHolder r
        = { s with records := Vec.set s.records r (s.record r).afterLast, deadlines := l }
      ∧ ∀ id, id ≠ .guard r →
        (s.afterLastHolder r).armed id = (s.graceOver r).armed id := by
  unfold Record.afterLast
  by_cases hg : (s.record r).attrs.guard = 0
  · rw [if_neg fun e => e hg]
    by_cases hr : (s.record r).retirePending = true
    · rw [if_pos hr, State.afterLastHolder_retires hg hr]
      refine ⟨(s.graceOver r).deadlines, ?_, fun id _ => rfl⟩
      rw [State.graceOver_eq]
      rfl
    · rw [if_neg hr, State.afterLastHolder_frees hg (Bool.eq_false_of_not_eq_true hr),
        State.grantRule_of_settled
          (State.settled_of_queue_nil (by rw [State.graceOver_eq]; exact hq))]
      refine ⟨(s.graceOver r).deadlines, ?_, fun id _ => rfl⟩
      rw [State.graceOver_eq]
      rfl
  · rw [if_pos hg, State.afterLastHolder_drains hg]
    refine ⟨insertDeadline s.clock
      { id := .guard r, due := s.clock + (s.record r).attrs.guard.setWidth 32 }
      (withoutDeadline (.guard r) (s.graceOver r).deadlines), ?_, fun id hid => ?_⟩
    · unfold State.arm
      rw [if_neg hg, State.graceOver_eq]
      rfl
    · rw [State.armed_arm, if_neg hid]
      rfl

/-- The drained record counts its guard time from the clock. -/
theorem State.deadlineOf_guard_afterLastHolder (hg : (s.record r).attrs.guard ≠ 0) :
    (s.afterLastHolder r).deadlineOf (.guard r)
      = some { id := .guard r, due := s.clock + (s.record r).attrs.guard.setWidth 32 } := by
  rw [State.afterLastHolder_drains hg, State.deadlineOf_arm_self _ _ hg, State.graceOver_eq]
  rfl

end

/-- Settles O20: the release path of the sole holder goes on to R34; without waiters the record that
follows is read off its guard time and its mark. -/
theorem lastReleaseDrainsOrFrees : Obligations.LastReleaseDrainsOrFrees := by
  intro s p tag r _ hreach ha hsole
  have hc : s.holds r p = true := mem_holders.mp (by rw [hsole]; exact List.mem_singleton_self p)
  have hkept := s.keepSession_sameLeases p
  have hsole' : ((s.keepSession p).record r).holders = [p] := by
    rw [State.record_keepSession, hsole]
  obtain ⟨l, hl⟩ := s.keepSession_eq p
  refine ⟨fun hq => ?_, fun hw => ?_, fun hwaiters i hi ho => ?_⟩
  · have hw : s.waits r p = false := State.not_waits_iff.mpr (by rw [hq]; nofun)
    have hexec := execRelease_alone hreach ha hc hw
    have hqueue : ((s.keepSession p).leaving r p).queue r = [] := (hkept.queue r).trans hq
    have hrec : ((s.keepSession p).leaving r p).record r = s.record r := s.record_keepSession p r
    have hold := (s.keepSession p).not_armed_leaving r p
    rw [State.endLease_sole hsole'] at hexec
    obtain ⟨k, ht, harmed⟩ := State.afterLastHolder_of_queue_nil hqueue
    have hgrace := State.armed_graceOver ((s.keepSession p).leaving r p) r (.grace r)
    have hguard := State.deadlineOf_guard_afterLastHolder (r := r)
      (s := (s.keepSession p).leaving r p)
    rw [hrec] at ht hguard hgrace
    generalize ((s.keepSession p).leaving r p).afterLastHolder r = t at hexec ht harmed hguard
    have hgone : t.armed (.hold r p) = false := by
      rw [harmed (.hold r p) nofun, State.armed_graceOver, hold, ite_self]
    have hover (hs : (s.record r).state = .revoking) : t.armed (.grace r) = false := by
      rw [harmed (.grace r) nofun, hgrace, if_pos ⟨hs, rfl⟩]
    unfold State.leaving at ht
    rw [hl] at ht
    have hrecords : t.records = Vec.set s.records r (s.record r).afterLast :=
      by rw [ht]
    refine ⟨_, hexec, by rw [ht]; rfl, by rw [ht]; rfl, by rw [ht]; rfl, by rw [ht]; rfl,
      by rw [ht]; rfl, hgone, hover, fun hg => ⟨?_, ?_⟩, fun hg hr => ?_, fun hg hr => ?_⟩
    · exact hrecords.trans (congrArg _ (if_pos hg))
    · exact (hguard hg).trans (by rw [State.leaving, hl])
    · exact hrecords.trans (congrArg _ ((if_neg fun e => e hg).trans (if_pos hr)))
    · exact hrecords.trans
        (congrArg _ ((if_neg fun e => e hg).trans (if_neg (Bool.eq_false_iff.mp hr))))
  · rw [execRelease_alone hreach ha hc hw, State.endLease_sole hsole', State.leaving_keepSession hw]
  · have hw := hkept.waiters hwaiters.waiters
    have hi' : i ∈ (s.keepSession p).queue r := by rw [hkept.queue]; exact hi
    have ho' : (s.keepSession p).entryOf p i = true := by rw [hkept.entryOf]; exact ho
    rw [execRelease_held hreach ha hc,
      hw.removeUpgrade_eq ((s.holds_keepSession p r p).trans hc) hi' ho',
      State.endLease_report, State.endLease_sole (by exact hsole'),
      hwaiters.waiters.isSome_upgradeOf hc, State.waits_iff.mpr ⟨i, hi, ho⟩,
      State.leaving_withoutEntry (hw.not_waits_withoutEntry hi' ho'), hl]
    rfl

end Sys2Proof.Machine
end

section
/-! PROOF. HOLD expiry (R41, R42): the client's notice, its UPGRADE entry, then the release path. -/

namespace Sys2Proof.Machine

/-- A queue that took in a notice about a resource holds one. -/
theorem any_about_enqueueNotice (r : Res) (w : ResourceWord) (q : List Notice) :
    (enqueueNotice r w q).any (Notice.about r) = true := by
  induction q with
  | nil => simp [enqueueNotice, Notice.about]
  | cons n rest ih =>
    cases n with
    | resource r' w' k =>
      unfold enqueueNotice
      dsimp only
      split
      · simp [Notice.about]
      · rw [List.any_cons, ih, Bool.or_true]
    | sessionLapsed k => exact (List.any_cons ..).trans (by rw [ih, Bool.or_true])
    | sessionEvicted k => exact (List.any_cons ..).trans (by rw [ih, Bool.or_true])

section
variable {s : State} {r : Res} {c : Client}

theorem State.noticeQueue_notify_self (s : State) (c : Client) (r : Res) (w : ResourceWord) :
    (s.notify c r w).noticeQueue c
      = { s.noticeQueue c with queue := enqueueNotice r w (s.noticeQueue c).queue } :=
  (Vec.get_set _ _ _ _).trans (if_pos rfl)

theorem State.unread_notify_self (s : State) (c : Client) (r : Res) (w : ResourceWord) :
    (s.notify c r w).unread r c = true := by
  unfold State.unread
  rw [State.noticeQueue_notify_self]
  exact any_about_enqueueNotice r w _

/-- The state that the release path of an expired lease begins in: the deadline taken from the list,
the client told (R41). -/
def State.expiring (s : State) (r : Res) (c : Client) (t : Token) : State :=
  (s.disarm (.hold r c)).notify c r (.leaseExpired t)

theorem State.expiring_sameLeases (s : State) (r : Res) (c : Client) (t : Token) :
    SameLeases s (s.expiring r c t) :=
  (s.disarm_sameLeases _).trans (State.notify_sameLeases _ c r _)

theorem State.expiring_elsewhere (s : State) (r : Res) (c : Client) (t : Token) :
    s.sameElsewhere (s.expiring r c t) r :=
  State.sameElsewhere_trans (s.disarm_elsewhere (s.awayFrom_hold r c))
    (State.notify_elsewhere _ c r _)

theorem State.expiring_frame (s : State) (r : Res) (c : Client) (t : Token) :
    LeaseFrame s (s.expiring r c t) :=
  (s.disarm_frame _).trans (State.notify_frame _ c r _)

/-- HOLD expiry of an armed deadline. -/
theorem execHoldDeadlineExpiry_armed (harmed : s.armed (.hold r c) = true) {l : Lease}
    (hl : (s.record r).lease c = some l) :
    exec (.holdDeadlineExpiry r c) s
      = .next (((s.expiring r c l.token).removeUpgrade r c).endLease r c false) := by
  have hl' : ((s.disarm (.hold r c)).record r).lease c = some l := hl
  refine congrArg Host.Outcome.next ((State.expire_of_armed harmed).trans ?_)
  show (s.disarm (.hold r c)).holdExpired r c = _
  unfold State.holdExpired
  rw [hl']
  rfl

/-- The HOLD deadline goes once, and the client's involvement is what its notice makes it. -/
theorem State.leaseExpiring_eq (s : State) (r : Res) (c : Client) (t : Token) :
    { s.expiring r c t with
      deadlines := withoutDeadline (.hold r c) (s.expiring r c t).deadlines
      sessions := Vec.set (s.expiring r c t).sessions c
        (((s.expiring r c t).session c).setInvolves r ((s.expiring r c t).unread r c)) }
      = s.leaseExpiring r c t := by
  have hunread : (s.expiring r c t).unread r c = true := State.unread_notify_self _ c r _
  have hdeadlines : withoutDeadline (.hold r c) (s.expiring r c t).deadlines
      = withoutDeadline (.hold r c) s.deadlines := withoutDeadline_withoutDeadline _ _
  rw [hunread, hdeadlines]
  rfl

theorem State.leaving_expiring {t : Token} (hw : s.waits r c = false) :
    (s.expiring r c t).leaving r c = s.leaseExpiring r c t := by
  unfold State.leaving
  rw [((s.expiring_sameLeases r c t).waits r c).trans hw, Bool.false_or, State.leaseExpiring_eq]

end

/-- Settles O47: the release path from the state in which the client is told. -/
theorem holdExpiryEndsTheLease : Obligations.HoldExpiryEndsTheLease := by
  intro s r c
  refine ⟨fun h => congrArg Host.Outcome.next (State.expire_of_not_armed h),
    fun _ hwaiters harmed l hl => ?_, fun _ harmed hw l hl => ?_,
    fun hrecords hwaiters harmed l hl i hi ho => ?_⟩
  · have hc : s.holds r c = true := Option.isSome_of_mem hl
    have hsame := s.expiring_sameLeases r c l.token
    have e := (hsame.waiters hwaiters.waiters).leave ((hsame.holds r c).trans hc)
    have frame := (s.expiring_frame r c l.token).trans e.frame
    refine ⟨_, execHoldDeadlineExpiry_armed harmed hl, e.not_holds, e.not_waits, e.not_armed, ?_,
      fun d hd hdh => e.others d hd ((hsame.holds r d).trans hdh),
      State.sameElsewhere_trans (s.expiring_elsewhere r c l.token) e.elsewhere, frame.outside,
      frame.cpis, frame.stored, frame.framing⟩
    rw [e.notices]
    exact congrArg NoticeQueue.queue (State.noticeQueue_notify_self _ c r _)
  · have hc : (s.expiring r c l.token).holds r c = true := Option.isSome_of_mem hl
    rw [execHoldDeadlineExpiry_armed harmed hl, State.removeUpgrade_of_not_waits
      (((s.expiring_sameLeases r c l.token).waits r c).trans hw)]
    refine congrArg Host.Outcome.next ?_
    by_cases sole : (s.record r).holders = [c]
    · rw [if_pos sole, State.endLease_sole (by exact sole), State.leaving_expiring hw]
    · rw [if_neg sole, State.endLease_beside hc sole, State.vacate_eq, State.leaving_expiring hw]
      rfl
  · have hsame := s.expiring_sameLeases r c l.token
    have hw := hsame.waiters hwaiters.waiters
    have hc : (s.expiring r c l.token).holds r c = true := Option.isSome_of_mem hl
    have ho' : (s.expiring r c l.token).entryOf c i = true := (hsame.entryOf c i).trans ho
    have hheld : (s.record r).state = .held := by
      refine ((hrecords r).state_of_holder (mem_holders.mpr hc)).resolve_right fun hrev => ?_
      obtain ⟨hkind, -, hrevoking⟩ := hwaiters.waiters.upgrades
      exact absurd ((hrevoking r hrev i hi).symm.trans ((hkind r c i hi ho).trans hc)) nofun
    have hleaving : ((s.expiring r c l.token).withoutEntry r i).leaving r c
        = (s.leaseExpiring r c l.token).withoutEntry r i := by
      rw [State.leaving_withoutEntry (hw.not_waits_withoutEntry hi ho'), State.leaseExpiring_eq]
    rw [execHoldDeadlineExpiry_armed harmed hl, hw.removeUpgrade_eq hc hi ho',
      State.endLease_report]
    refine congrArg Host.Outcome.next ?_
    by_cases sole : (s.record r).holders = [c]
    · rw [if_pos sole, State.endLease_sole (by exact sole), hleaving]
    · rw [if_neg sole, State.endLease_beside (by exact hc) (by exact sole),
        if_pos (by exact hheld), State.vacate_eq, hleaving]
      rfl

end Sys2Proof.Machine
end

section
/-! PROOF. Forced removal (R88, R91): the removal of every holder as one change of the state, then
what R34 says. -/

namespace Sys2Proof.Machine

/-! The removal of holders as one change -/

/-- The client is told and its HOLD deadline is gone; its slot is still to be emptied. -/
def State.told (s : State) (r : Res) (c : Client) (w : ResourceWord) : State :=
  { s with
    deadlines := withoutDeadline (.hold r c) s.deadlines
    sessions := Vec.set s.sessions c ((s.session c).setInvolves r true)
    notices := Vec.set s.notices c
      { s.noticeQueue c with queue := enqueueNotice r w (s.noticeQueue c).queue } }

/-- The client's notices once its lease on the resource, if it has one, is revoked. -/
def State.revokedNotices (s : State) (r : Res) (c : Client) : NoticeQueue :=
  match (s.record r).lease c with
  | none => s.noticeQueue c
  | some l =>
    { s.noticeQueue c with
      queue := enqueueNotice r (.leaseRevoked l.token) (s.noticeQueue c).queue }

/-- The leases of the clients `gone` are revoked; their slots are still to be emptied. -/
def State.removed (s : State) (r : Res) (gone : Client → Bool) : State :=
  { s with
    deadlines := s.deadlines.filter fun d => decide (∀ c, gone c = true → d.id ≠ .hold r c)
    sessions := Vector.ofFn fun c =>
      if gone c then (s.session c).setInvolves r true else s.session c
    notices := Vector.ofFn fun c => if gone c then s.revokedNotices r c else s.noticeQueue c }

section
variable {s : State} {r : Res} {c : Client}

theorem State.leaving_notify (s : State) (r : Res) (c : Client) (w : ResourceWord) :
    (s.notify c r w).leaving r c = s.told r c w := by
  unfold State.leaving
  rw [State.unread_notify_self, Bool.or_true]
  rfl

theorem State.removed_none (s : State) (r : Res) : s.removed r (fun _ => false) = s := by
  have hdeadlines : (s.deadlines.filter fun d =>
      decide (∀ c : Client, (fun _ => false) c = true → d.id ≠ .hold r c)) = s.deadlines :=
    List.filter_eq_self.mpr fun d _ => decide_eq_true fun c h => by cases h
  have hsessions : (Vector.ofFn fun c => if (fun _ => false) c = true
      then (s.session c).setInvolves r true else s.session c) = s.sessions :=
    Vec.ext fun c => (Vec.get_ofFn _ c).trans (if_neg nofun)
  have hnotices : (Vector.ofFn fun c => if (fun _ => false) c = true
      then s.revokedNotices r c else s.noticeQueue c) = s.notices :=
    Vec.ext fun c => (Vec.get_ofFn _ c).trans (if_neg nofun)
  unfold State.removed
  rw [hdeadlines, hsessions, hnotices]

theorem State.record_removed (s : State) (r : Res) (gone : Client → Bool) (k : Res) :
    (s.removed r gone).record k = s.record k := rfl

theorem State.session_removed (s : State) (r : Res) (gone : Client → Bool) (c : Client) :
    (s.removed r gone).session c
      = if gone c then (s.session c).setInvolves r true else s.session c := Vec.get_ofFn _ c

theorem State.noticeQueue_removed (s : State) (r : Res) (gone : Client → Bool) (c : Client) :
    (s.removed r gone).noticeQueue c
      = if gone c then s.revokedNotices r c else s.noticeQueue c := Vec.get_ofFn _ c

theorem State.revokedNotices_of_lease {l : Lease} (h : (s.record r).lease c = some l) :
    s.revokedNotices r c
      = { s.noticeQueue c with
          queue := enqueueNotice r (.leaseRevoked l.token) (s.noticeQueue c).queue } := by
  unfold State.revokedNotices
  rw [h]

/-- One more client loses its lease. -/
theorem State.told_removed {gone : Client → Bool} {l : Lease} (hc : gone c = false)
    (h : (s.record r).lease c = some l) :
    (s.removed r gone).told r c (.leaseRevoked l.token)
      = s.removed r fun d => decide (d = c) || gone d := by
  have hsession : (s.removed r gone).session c = s.session c := by
    rw [State.session_removed, hc]
    rfl
  have hqueue : (s.removed r gone).noticeQueue c = s.noticeQueue c := by
    rw [State.noticeQueue_removed, hc]
    rfl
  have hdeadlines : withoutDeadline (.hold r c) (s.removed r gone).deadlines
      = (s.removed r fun d => decide (d = c) || gone d).deadlines := by
    unfold withoutDeadline State.removed
    rw [List.filter_filter]
    refine List.filter_congr fun d _ => Bool.eq_iff_iff.mpr ?_
    simp [or_imp, forall_and]
  have hsessions : Vec.set (s.removed r gone).sessions c ((s.session c).setInvolves r true)
      = (s.removed r fun d => decide (d = c) || gone d).sessions := by
    refine Vec.ext fun d => (Vec.get_set _ _ _ _).trans ?_
    refine Eq.trans ?_ (s.session_removed r _ d).symm
    by_cases hd : d = c
    · simp [hd]
    · rw [if_neg hd]
      exact (s.session_removed r gone d).trans (by simp [hd])
  have hnotices : Vec.set (s.removed r gone).notices c (s.revokedNotices r c)
      = (s.removed r fun d => decide (d = c) || gone d).notices := by
    refine Vec.ext fun d => (Vec.get_set _ _ _ _).trans ?_
    refine Eq.trans ?_ (s.noticeQueue_removed r _ d).symm
    by_cases hd : d = c
    · simp [hd]
    · rw [if_neg hd]
      exact (s.noticeQueue_removed r gone d).trans (by simp [hd])
  unfold State.told
  rw [hsession, hqueue, ← State.revokedNotices_of_lease h, hdeadlines, hsessions, hnotices]
  rfl

/-- A quiet end of a lease beside others empties the slot and no more (R88). -/
theorem State.endLease_quiet (hc : s.holds r c = true) (h : (s.record r).holders ≠ [c]) :
    s.endLease r c true = s.vacate r c := by
  have hmore : ((s.record r).setLease c none).holders ≠ [] := fun e =>
    h ((Record.holders_vacated_iff (mem_holders.mpr hc)).mp e)
  rw [State.endLease_of_more true hmore]
  exact if_neg fun e => absurd e.2 nofun

theorem State.removeHolder_of_lease {l : Lease} (h : (s.record r).lease c = some l) :
    State.removeHolder r s c = (s.notify c r (.leaseRevoked l.token)).endLease r c true := by
  unfold State.removeHolder
  rw [h]

/-- A removal under way: the leases of the clients `gone` are revoked and their slots empty. -/
structure Removing (s u : State) (r : Res) (gone : Client → Bool) : Prop where
  eq : u = (s.removed r gone).setRecord r { s.record r with slots := (u.record r).slots }
  lease : ∀ c, (u.record r).lease c = if gone c then none else (s.record r).lease c
  held : ∀ c, gone c = true → s.holds r c = true

theorem Removing.start (s : State) (r : Res) : Removing s s r fun _ => false := by
  refine ⟨?_, fun c => rfl, fun c h => by cases h⟩
  rw [State.removed_none]
  unfold State.setRecord State.record
  rw [Vec.set_self]

theorem Removing.not_gone {u : State} {gone : Client → Bool} (h : Removing s u r gone)
    {l : Lease} (hl : (u.record r).lease c = some l) :
    gone c = false ∧ (s.record r).lease c = some l := by
  rw [h.lease] at hl
  cases hg : gone c with
  | false => exact ⟨rfl, by rwa [hg] at hl⟩
  | true => rw [hg] at hl; cases hl

theorem Removing.record {u : State} {gone : Client → Bool} (h : Removing s u r gone) :
    u.record r = { s.record r with slots := (u.record r).slots } :=
  (congrArg (fun x => State.record x r) h.eq).trans (State.record_setRecord_self _ r _)

/-- The next holder is told. -/
theorem Removing.told {u : State} {gone : Client → Bool} (h : Removing s u r gone)
    {l : Lease} (hl : (u.record r).lease c = some l) :
    u.told r c (.leaseRevoked l.token)
      = (s.removed r fun d => decide (d = c) || gone d).setRecord r
          { s.record r with slots := (u.record r).slots } := by
  obtain ⟨hc, hl'⟩ := h.not_gone hl
  rw [← State.told_removed hc hl']
  exact congrArg (fun x => State.told x r c (.leaseRevoked l.token)) h.eq

/-- A removal but the last empties the slot. -/
theorem Removing.more {u : State} {gone : Client → Bool} (h : Removing s u r gone)
    {l : Lease} (hl : (u.record r).lease c = some l) (hmore : (u.record r).holders ≠ [c]) :
    Removing s (State.removeHolder r u c) r fun d => decide (d = c) || gone d := by
  have hc : (u.notify c r (.leaseRevoked l.token)).holds r c = true := Option.isSome_of_mem hl
  have e : State.removeHolder r u c
      = (u.told r c (.leaseRevoked l.token)).setRecord r
          { u.record r with slots := Vec.set (u.record r).slots c none } := by
    rw [State.removeHolder_of_lease hl, State.endLease_quiet hc hmore, State.vacate_eq,
      State.leaving_notify]
    rfl
  have hrec : (State.removeHolder r u c).record r
      = { u.record r with slots := Vec.set (u.record r).slots c none } := by
    rw [e, State.record_setRecord_self]
  refine ⟨?_, fun d => ?_, fun d hd => ?_⟩
  · rw [hrec, e, h.told hl, State.setRecord_setRecord]
    exact congrArg (State.setRecord _ r)
      (congrArg (fun x : Record => { x with slots := Vec.set (u.record r).slots c none }) h.record)
  · rw [hrec]
    refine ((u.record r).lease_setLease c d none).trans ?_
    by_cases hd : d = c <;> simp [hd, h.lease]
  · rcases Bool.or_eq_true .. ▸ hd with hd | hd
    · rw [of_decide_eq_true hd]
      exact Option.isSome_of_mem (h.not_gone hl).2
    · exact h.held d hd

/-- The last removal goes on to what R34 says. -/
theorem Removing.last {u : State} {gone : Client → Bool} (h : Removing s u r gone)
    (hlast : (u.record r).holders = [c]) :
    State.removeHolder r u c = (s.removed r (s.holds r)).afterLastHolder r := by
  have hmem : ∀ d, d ∈ (u.record r).holders ↔ d = c := fun d => by rw [hlast, List.mem_singleton]
  obtain ⟨l, hl⟩ := Option.isSome_iff_exists.mp (mem_holders.mp ((hmem c).mpr rfl))
  have hall : (fun d => decide (d = c) || gone d) = s.holds r := by
    funext d
    have hd := (hmem d).symm.trans mem_holders
    rw [h.lease] at hd
    cases hg : gone d with
    | true => rw [h.held d hg, Bool.or_true]
    | false =>
      rw [hg] at hd
      exact Bool.eq_iff_iff.mpr (by rw [Bool.or_false, decide_eq_true_iff]; exact hd)
  rw [State.removeHolder_of_lease hl, State.endLease_sole (by exact hlast), State.leaving_notify,
    h.told hl, hall]
  exact State.afterLastHolder_setSlots _ r _

/-- The removal of every holder. -/
theorem State.removeHolders_eq (h : (s.record r).holders ≠ []) :
    s.removeHolders r = (s.removed r (s.holds r)).afterLastHolder r := by
  refine State.removeHolders_induct (I := fun u => ∃ gone, Removing s u r gone)
    (J := fun t => t = (s.removed r (s.holds r)).afterLastHolder r) ?_ ?_ h ⟨_, .start s r⟩
  · rintro u c rest hu hrest ⟨gone, hremoving⟩
    obtain ⟨l, hl⟩ := Option.isSome_iff_exists.mp
      (mem_holders.mp (hu ▸ List.mem_cons_self : c ∈ (u.record r).holders))
    exact ⟨_, hremoving.more hl fun e => hrest (List.cons.inj (hu.symm.trans e)).2⟩
  · rintro u c hu ⟨gone, hremoving⟩
    exact hremoving.last hu

/-! What R34 leaves -/

/-- The grant rule puts no record into REVOKING. -/
theorem State.state_grantRule_ne_revoking (h : (s.record r).state ≠ .revoking) :
    ((s.grantRule r).record r).state ≠ .revoking := by
  unfold State.grantRule
  split
  · refine State.grantHeads_keeps (P := fun u : State => (u.record r).state ≠ .revoking)
      (fun u i e _ _ _ _ => ?_) _ h
    rw [State.record_grantEntry, if_pos rfl]
    nofun
  · exact h

/-- The grant rule arms HOLD deadlines only. -/
theorem State.not_armed_grantRule {k : DeadlineId} (hk : ∀ d, k ≠ .hold r d)
    (h : s.armed k = false) : (s.grantRule r).armed k = false := by
  unfold State.grantRule
  split
  · refine State.grantHeads_keeps (P := fun u : State => u.armed k = false)
      (fun u i e he _ _ hu => ?_) _ h
    rw [State.armed_congr (u.deadlines_grantEntry r i e), State.armed_arm, if_neg (hk _),
      State.removeEntry_of_entry he]
    refine (u.armed_disarm (.wait i) k).trans ?_
    rw [hu, ite_self]
  · exact h

theorem State.state_afterLastHolder_drains (hg : (s.record r).attrs.guard ≠ 0) :
    ((s.afterLastHolder r).record r).state = .draining := by
  rw [State.afterLastHolder_drains hg, (State.arm_sameLeases _ _ _).record,
    State.record_setRecord_self]

theorem State.state_afterLastHolder_ne_revoking (s : State) (r : Res) :
    ((s.afterLastHolder r).record r).state ≠ .revoking := by
  by_cases hg : (s.record r).attrs.guard = 0
  · cases hr : (s.record r).retirePending with
    | true =>
      rw [State.afterLastHolder_retires hg hr, State.record_setRecord_self]
      nofun
    | false =>
      rw [State.afterLastHolder_frees hg hr]
      refine State.state_grantRule_ne_revoking ?_
      rw [State.record_setRecord_self]
      nofun
  · rw [State.state_afterLastHolder_drains hg]
    nofun

theorem State.not_armed_grace_afterLastHolder (h : s.armed (.grace r) = false) :
    (s.afterLastHolder r).armed (.grace r) = false := by
  have hover : (s.graceOver r).armed (.grace r) = false := by
    rw [State.armed_graceOver, h, ite_self]
  by_cases hg : (s.record r).attrs.guard = 0
  · cases hr : (s.record r).retirePending with
    | true =>
      rw [State.afterLastHolder_retires hg hr]
      exact hover
    | false =>
      rw [State.afterLastHolder_frees hg hr]
      exact State.not_armed_grantRule nofun hover
  · rw [State.afterLastHolder_drains hg, State.armed_arm, if_neg nofun]
    exact hover

/-- A client whose lease is revoked has nothing of the resource left. -/
theorem State.afterLastHolder_removed (hp : s.PoolWf) (hc : s.holds r c = true)
    (hw : s.waits r c = false) :
    ((s.removed r (s.holds r)).afterLastHolder r).holds r c = false
      ∧ ((s.removed r (s.holds r)).afterLastHolder r).waits r c = false
      ∧ ((s.removed r (s.holds r)).afterLastHolder r).armed (.hold r c) = false
      ∧ ((s.removed r (s.holds r)).afterLastHolder r).noticeQueue c = s.revokedNotices r c := by
  have hnone : ({ s.record r with slots := Vector.replicate 4 none } : Record).holders = [] := rfl
  have harmed : (s.removed r (s.holds r)).armed (.hold r c) = false := by
    refine Bool.eq_false_of_not_eq_true fun h => ?_
    obtain ⟨d, hd, hid⟩ := State.armed_iff_mem.mp h
    exact of_decide_eq_true (List.mem_filter.mp hd).2 c hc hid
  have e := State.afterLastHolder_setSlots (s.removed r (s.holds r)) r (Vector.replicate 4 none)
  rw [← State.lastHolderLeft_of_no_holders (by rw [State.record_setRecord_self]; exact hnone)] at e
  have gains := State.lastHolderLeft_gainsNothing (r := r) (c := c)
    (s := (s.removed r (s.holds r)).setRecord r
      { s.record r with slots := Vector.replicate 4 none })
    (hp.congr (fun _ => rfl) fun _ => rfl) hw
  rw [← e]
  refine ⟨gains.not_holds ?_, gains.not_waits hw, gains.not_armed harmed, gains.notices.trans ?_⟩
  · rw [State.holds_setRecord, if_pos rfl]
    exact congrArg Option.isSome (Vec.get_replicate none c)
  · exact (State.noticeQueue_removed s r _ c).trans (if_pos hc)

/-- The deadlines that a removal keeps, by kind. -/
theorem DeadlineId.ne_removed_hold (r r' : Res) (c' : Client) (gone : Client → Bool) :
    decide (∀ c, gone c = true → DeadlineId.hold r' c' ≠ .hold r c) = !(r' == r && gone c') := by
  refine Bool.eq_iff_iff.mpr ?_
  simp only [decide_eq_true_iff, ne_eq, DeadlineId.hold.injEq, not_and, Bool.not_eq_true',
    Bool.and_eq_false_iff, beq_eq_false_iff_ne]
  refine ⟨fun h => ?_, fun h c hc hr e => ?_⟩
  · by_cases hr : r' = r
    · exact .inr (Bool.eq_false_of_not_eq_true fun hg => h c' hg hr rfl)
    · exact .inl hr
  · rcases h with h | h
    · exact h hr
    · rw [e, hc] at h
      cases h

theorem State.revokedNotices_eq (s : State) (r : Res) (c : Client) :
    (if s.holds r c then s.revokedNotices r c else s.noticeQueue c) = s.revokedNotices r c := by
  unfold State.holds State.revokedNotices
  cases (s.record r).lease c <;> rfl

theorem State.notices_removed (s : State) (r : Res) :
    (s.removed r (s.holds r)).notices = Vector.ofFn fun c => s.revokedNotices r c :=
  Vec.ext fun c => (s.noticeQueue_removed r _ c).trans
    ((s.revokedNotices_eq r c).trans (Vec.get_ofFn _ c).symm)

theorem State.withEvent_events (s : State) {k : Nat} (h : k < 11) :
    (s.withEvent k).supervisor.events.getLsbD k = true := by
  simp [State.withEvent, h]

theorem State.record_withEvent (s : State) (k : Nat) (r : Res) :
    (s.withEvent k).record r = s.record r := rfl

theorem State.not_armed_removed {gone : Client → Bool} {k : DeadlineId} (h : s.armed k = false) :
    (s.removed r gone).armed k = false := by
  refine Bool.eq_false_of_not_eq_true fun ha => ?_
  obtain ⟨d, hd, hid⟩ := State.armed_iff_mem.mp ha
  exact absurd ((State.armed_iff_mem.mpr ⟨d, List.mem_of_mem_filter hd, hid⟩).symm.trans h) nofun

/-- The removal of every holder reaches nothing off the resource. -/
theorem State.removeHolders_elsewhere (hp : s.PoolWf) (h : (s.record r).holders ≠ []) :
    s.sameElsewhere (s.removeHolders r) r := by
  have step : ∀ (u : State) (c : Client), u.PoolWf →
      u.sameElsewhere (State.removeHolder r u c) r := by
    intro u c hu
    unfold State.removeHolder
    split
    · exact State.sameElsewhere_trans (u.notify_elsewhere c r _)
        (State.endLease_elsewhere _ c true (hu.resource_of_mem r))
    · exact u.sameElsewhere_refl r
  refine State.removeHolders_induct (I := fun u => s.sameElsewhere u r ∧ u.PoolWf)
    (J := fun t => s.sameElsewhere t r) ?_ ?_ h ⟨s.sameElsewhere_refl r, hp⟩
  · rintro u c rest hu hrest ⟨he, hpool⟩
    obtain ⟨w, hv, -⟩ := State.removeHolder_of_more hu hrest
    refine ⟨State.sameElsewhere_trans he (step u c hpool), ?_⟩
    rw [hv]
    exact hpool.congr (State.queue_vacate _ r c) (State.entry_vacate _ r c)
  · rintro u c - ⟨he, hpool⟩
    exact State.sameElsewhere_trans he (step u c hpool)

end

/-! GRACE expiry (R91) -/

/-- Nobody that holds a REVOKING record waits on it (R47, R89). -/
theorem State.Waiters.not_waits_of_revoking {s : State} (h : s.Waiters) {r : Res} {c : Client}
    (hs : (s.record r).state = .revoking) (hc : s.holds r c = true) : s.waits r c = false := by
  obtain ⟨hkind, -, hrevoking⟩ := h.upgrades
  refine State.not_waits_iff.mpr fun i hi => Bool.eq_false_of_not_eq_true fun ho => ?_
  exact absurd ((hrevoking r hs i hi).symm.trans ((hkind r c i hi ho).trans hc)) nofun

theorem execGraceExpiry_revoking {s : State} {r : Res} (hrecords : s.RecordsWf)
    (harmed : s.armed (.grace r) = true) (hs : (s.record r).state = .revoking) :
    exec (.graceExpiry r) s
      = .next (((s.disarm (.grace r)).removeHolders r).raise .forcedRevoke) := by
  obtain ⟨-, hgrace, -⟩ := hrecords r
  refine congrArg Host.Outcome.next ((State.expire_of_armed harmed).trans ?_)
  exact if_pos (hgrace.mpr hs)

/-- Settles O50: the removal of every holder from the state whose GRACE deadline is gone. -/
theorem graceExpiryRemovesHolders : Obligations.GraceExpiryRemovesHolders := by
  intro s r
  refine ⟨fun h => congrArg Host.Outcome.next (State.expire_of_not_armed h),
    fun hrecords hwaiters harmed hs => ?_⟩
  have hsame := s.disarm_sameLeases (.grace r)
  have hw := hsame.waiters hwaiters.waiters
  have hh : ((s.disarm (.grace r)).record r).holders ≠ [] := (hrecords r).1.mpr (.inr hs)
  have hpost := fun c (hc : s.holds r c = true) => State.afterLastHolder_removed hw.pool
    (r := r) (c := c) (by exact hc) (hw.not_waits_of_revoking hs hc)
  have helse : s.sameElsewhere ((s.disarm (.grace r)).removeHolders r) r :=
    State.sameElsewhere_trans (s.disarm_elsewhere (s.awayFrom_grace r))
      (State.removeHolders_elsewhere hw.pool hh)
  have hframe := ((s.disarm_frame (.grace r)).trans (State.removeHolders_frame _ r)).trans
    (State.raise_frame _ .forcedRevoke)
  have heq := State.removeHolders_eq hh
  have hexec := execGraceExpiry_revoking hrecords harmed hs
  have hgrace : ((s.disarm (.grace r)).removed r (s.holds r)).armed (.grace r) = false :=
    State.not_armed_removed (s.armed_disarm_self (.grace r))
  refine ⟨_, hexec, ?_, ?_, ?_, fun hg => ?_, fun c l hl => ?_, ?_,
    State.sameElsewhere_trans helse (State.raise_elsewhere _ _ r), hframe.outside, hframe.cpis,
    hframe.stored, hframe.framing⟩
  · rw [heq]
    refine congrArg (fun x => (State.afterLastHolder x r).withEvent 9) ?_
    unfold State.removed
    congr 1
    · refine List.filter_congr fun d _ => ?_
      cases hd : d.id with
      | hold r' c' => exact DeadlineId.ne_removed_hold r r' c' _
      | wait i => exact decide_eq_true fun _ _ => nofun
      | session c' => exact decide_eq_true fun _ _ => nofun
      | grace r' => exact decide_eq_true fun _ _ => nofun
      | guard r' => exact decide_eq_true fun _ _ => nofun
    · exact (State.notices_removed (s.disarm (.grace r)) r).trans (Vec.ext fun c => by
        rw [Vec.get_ofFn, Vec.get_ofFn]
        rfl)
  · rw [heq]
    exact State.state_afterLastHolder_ne_revoking _ r
  · rw [heq]
    exact State.not_armed_grace_afterLastHolder hgrace
  · rw [heq]
    exact State.state_afterLastHolder_drains (by exact hg)
  · obtain ⟨hholds, -, hnot, hnotices⟩ := hpost c (Option.isSome_of_mem hl)
    rw [heq]
    refine ⟨hholds, hnot, ?_⟩
    exact (congrArg NoticeQueue.queue hnotices).trans
      (congrArg NoticeQueue.queue (State.revokedNotices_of_lease (by exact hl)))
  · exact State.withEvent_events _ (by decide)

end Sys2Proof.Machine
end

section
/-! PROOF. REVOKE with grace 0 (R86 to R88): the UPGRADE entry at the head is cancelled, then every
holder is removed. -/

namespace Sys2Proof.Machine

section
variable {s : State} {r : Res} {c : Client}

/-- The queue's UPGRADE entry is the one at its head (R49). -/
theorem State.Waiters.upgradeHead_iff (h : s.Waiters) {i : PoolIx} :
    s.upgradeHead r = some i ↔ i ∈ s.queue r ∧ s.isUpgrade i = true := by
  obtain ⟨-, htail, -⟩ := h.upgrades
  have hr := htail r
  unfold State.upgradeHead
  cases hq : s.queue r with
  | nil => simp
  | cons j rest =>
    rw [hq] at hr
    rw [List.head?_cons, Option.filter_eq_some_iff, List.mem_cons, Option.some.injEq]
    refine ⟨fun ⟨e, hu⟩ => ⟨.inl e.symm, hu⟩, fun ⟨hmem, hu⟩ => ⟨?_, hu⟩⟩
    rcases hmem with e | hmem
    · exact e.symm
    · exact absurd (hu.symm.trans (hr i hmem)) nofun

theorem State.Waiters.isSome_upgradeHead (h : s.Waiters) (r : Res) :
    (s.upgradeHead r).isSome = (s.queue r).any s.isUpgrade := by
  refine Bool.eq_iff_iff.mpr ?_
  rw [Option.isSome_iff_exists, List.any_eq_true]
  exact exists_congr fun i => h.upgradeHead_iff

/-- A holder that waits is the one whose entry is at the head (R47, R49). -/
theorem State.Waiters.holder_waits_iff (h : s.Waiters) :
    (s.holds r c && s.waits r c) = true ↔ ∃ i, s.upgradeHead r = some i ∧ s.entryOf c i = true := by
  obtain ⟨hkind, -⟩ := h.upgrades
  rw [Bool.and_eq_true, State.waits_iff]
  constructor
  · rintro ⟨hc, i, hi, ho⟩
    exact ⟨i, h.upgradeHead_iff.mpr ⟨hi, (hkind r c i hi ho).trans hc⟩, ho⟩
  · rintro ⟨i, hhead, ho⟩
    obtain ⟨hi, hu⟩ := h.upgradeHead_iff.mp hhead
    exact ⟨(hkind r c i hi ho).symm.trans hu, i, hi, ho⟩

/-- The entries but the UPGRADE entries of the queue. -/
@[irreducible] def State.entriesWithoutUpgrade (s : State) (r : Res) :
    Vector (Option WaitEntry) 32 :=
  Vector.ofFn fun i => if i ∈ s.queue r ∧ s.isUpgrade i = true then none else s.entry i

theorem State.get_entriesWithoutUpgrade (s : State) (r : Res) (i : PoolIx) :
    Vec.get (s.entriesWithoutUpgrade r) i
      = if i ∈ s.queue r ∧ s.isUpgrade i = true then none else s.entry i := by
  unfold State.entriesWithoutUpgrade
  exact Vec.get_ofFn _ i

/-- The state without the queue's UPGRADE entry, whose client is told and is still involved. -/
def State.upgradeCancelled (s : State) (r : Res) : State :=
  { s with
    entries := s.entriesWithoutUpgrade r
    queues := Vec.set s.queues r ((s.queue r).filter fun i => !s.isUpgrade i)
    deadlines := s.deadlines.filter fun d =>
      decide (∀ i ∈ s.queue r, s.isUpgrade i = true → d.id ≠ .wait i)
    sessions := Vector.ofFn fun c =>
      if s.holds r c && s.waits r c then (s.session c).setInvolves r true else s.session c
    notices := Vector.ofFn fun c =>
      if s.holds r c && s.waits r c then
        { s.noticeQueue c with queue := enqueueNotice r .claimCancelled (s.noticeQueue c).queue }
      else s.noticeQueue c }

theorem State.record_upgradeCancelled (s : State) (r k : Res) :
    (s.upgradeCancelled r).record k = s.record k := rfl

/-- The cancelled entry, from what the fields it touches are. -/
theorem State.upgradeCancelled_eq {es : Vector (Option WaitEntry) 32}
    {qs : Vector (List PoolIx) 64} {ds : List Deadline} {ss : Vector Session 4}
    {ns : Vector NoticeQueue 4} (he : (s.upgradeCancelled r).entries = es)
    (hq : (s.upgradeCancelled r).queues = qs) (hd : (s.upgradeCancelled r).deadlines = ds)
    (hs : (s.upgradeCancelled r).sessions = ss) (hn : (s.upgradeCancelled r).notices = ns) :
    s.upgradeCancelled r
      = { s with entries := es, queues := qs, deadlines := ds, sessions := ss, notices := ns } := by
  subst he hq hd hs hn
  rfl

/-- Without an UPGRADE entry nothing is cancelled. -/
theorem State.upgradeCancelled_of_none (h : s.Waiters) (hhead : s.upgradeHead r = none) :
    s.upgradeCancelled r = s := by
  have hno : ∀ i, ¬ (i ∈ s.queue r ∧ s.isUpgrade i = true) := fun i hi =>
    absurd (hhead.symm.trans (h.upgradeHead_iff.mpr hi)) nofun
  have hwaits : ∀ c, (s.holds r c && s.waits r c) = false := fun c =>
    Bool.eq_false_of_not_eq_true fun e => by
      obtain ⟨i, hi, -⟩ := h.holder_waits_iff.mp e
      exact absurd (hhead.symm.trans hi) nofun
  have hentries : (s.upgradeCancelled r).entries = s.entries :=
    Vec.ext fun i => (s.get_entriesWithoutUpgrade r i).trans (if_neg (hno i))
  have hqueue : ((s.queue r).filter fun i => !s.isUpgrade i) = s.queue r :=
    List.filter_eq_self.mpr fun i hi => by
      rw [Bool.eq_false_of_not_eq_true fun hu => hno i ⟨hi, hu⟩, Bool.not_false]
  have hqueues : (s.upgradeCancelled r).queues = s.queues :=
    (congrArg (Vec.set s.queues r) hqueue).trans (Vec.set_self s.queues r)
  have hdeadlines : (s.upgradeCancelled r).deadlines = s.deadlines :=
    List.filter_eq_self.mpr fun d _ => decide_eq_true fun i hi hu => absurd ⟨hi, hu⟩ (hno i)
  have hsessions : (s.upgradeCancelled r).sessions = s.sessions :=
    Vec.ext fun c => (Vec.get_ofFn _ c).trans (if_neg (by rw [hwaits]; nofun))
  have hnotices : (s.upgradeCancelled r).notices = s.notices :=
    Vec.ext fun c => (Vec.get_ofFn _ c).trans (if_neg (by rw [hwaits]; nofun))
  exact State.upgradeCancelled_eq hentries hqueues hdeadlines hsessions hnotices

/-- The UPGRADE entry's client is told and is still involved. -/
theorem State.upgradeCancelled_of_some (h : s.Waiters) {i : PoolIx} {e : WaitEntry}
    (hhead : s.upgradeHead r = some i) (he : s.entry i = some e) :
    s.upgradeCancelled r
      = { (s.notify e.client r .claimCancelled).withoutEntry r i with
          sessions := Vec.set s.sessions e.client ((s.session e.client).setInvolves r true) } := by
  have hone : ∀ j, (j ∈ s.queue r ∧ s.isUpgrade j = true) ↔ j = i := fun j => by
    rw [← h.upgradeHead_iff, hhead, Option.some.injEq, eq_comm]
  obtain ⟨hi, hu⟩ := (hone i).mpr rfl
  have hclient : ∀ c, (s.holds r c && s.waits r c) = decide (c = e.client) := fun c => by
    refine Bool.eq_iff_iff.mpr (h.holder_waits_iff.trans ?_)
    rw [decide_eq_true_iff, hhead]
    simp only [Option.some.injEq, exists_eq_left', State.entryOf_of_entry he, beq_iff_eq]
    exact eq_comm
  have hentries : (s.upgradeCancelled r).entries = Vec.set s.entries i none :=
    Vec.ext fun j => (s.get_entriesWithoutUpgrade r j).trans
      ((if_congr (hone j) rfl rfl).trans (Vec.get_set _ _ _ _).symm)
  have hqueue : ((s.queue r).filter fun j => !s.isUpgrade j)
      = (s.queue r).filter fun j => j != i :=
    List.filter_congr fun j hj => Bool.eq_iff_iff.mpr (by
      rw [Bool.not_eq_true', ← Bool.not_eq_true, bne_iff_ne, ne_eq, ← hone j]
      exact not_congr (iff_and_self.mpr fun _ => hj))
  have hqueues : (s.upgradeCancelled r).queues
      = Vec.set s.queues r ((s.queue r).filter fun j => j != i) :=
    congrArg (Vec.set s.queues r) hqueue
  have hdeadlines : (s.upgradeCancelled r).deadlines = withoutDeadline (.wait i) s.deadlines :=
    List.filter_congr fun d _ => Bool.eq_iff_iff.mpr (by
      rw [decide_eq_true_iff, bne_iff_ne]
      exact ⟨fun hd => hd i hi hu, fun hd j hj hju => (hone j).mp ⟨hj, hju⟩ ▸ hd⟩)
  have hsessions : (s.upgradeCancelled r).sessions
      = Vec.set s.sessions e.client ((s.session e.client).setInvolves r true) := by
    refine Vec.ext fun c => (Vec.get_ofFn _ c).trans (Eq.trans ?_ (Vec.get_set _ _ _ _).symm)
    rw [hclient]
    by_cases hc : c = e.client <;> simp [hc, State.session]
  have hnotices : (s.upgradeCancelled r).notices
      = (s.notify e.client r .claimCancelled).notices := by
    refine Vec.ext fun c => (Vec.get_ofFn _ c).trans (Eq.trans ?_ (Vec.get_set _ _ _ _).symm)
    rw [hclient]
    by_cases hc : c = e.client <;> simp [hc, State.noticeQueue]
  exact State.upgradeCancelled_eq hentries hqueues hdeadlines hsessions hnotices

theorem State.cancelEntry_of_entry {i : PoolIx} {e : WaitEntry} (he : s.entry i = some e) :
    s.cancelEntry i = (s.notify e.client e.resource .claimCancelled).removeEntry i := by
  unfold State.cancelEntry
  rw [he]

/-- Step 1 of R87. -/
theorem State.cancelUpgrade_eq (h : s.Waiters) (r : Res) :
    s.cancelUpgrade r = s.upgradeCancelled r := by
  unfold State.cancelUpgrade
  cases hhead : s.upgradeHead r with
  | none => exact (State.upgradeCancelled_of_none h hhead).symm
  | some i =>
    obtain ⟨hi, -⟩ := h.upgradeHead_iff.mp hhead
    obtain ⟨e, he, hr⟩ := h.pool.entry_of_mem hi
    have he' : (s.notify e.client r .claimCancelled).entry i = some e := he
    show s.cancelEntry i = _
    rw [State.upgradeCancelled_of_some h hhead he, State.cancelEntry_of_entry he, hr,
      State.removeEntry_eq he' (h.pool.1 e.resource), hr]
    exact State.report_eq (b := true) (State.concerns_of_unread
      (State.unread_notify_self s e.client r .claimCancelled))

theorem State.cancelUpgrade_pool (h : s.PoolWf) (r : Res) : (s.cancelUpgrade r).PoolWf := by
  unfold State.cancelUpgrade
  split
  · rename_i i _
    obtain ⟨t, ht, e⟩ := s.cancelEntry_eq i
    rw [e]
    exact (ht.poolWf h).removeEntry i
  · exact h

theorem State.cancelUpgrade_elsewhere (h : s.PoolWf) (r : Res) :
    s.sameElsewhere (s.cancelUpgrade r) r := by
  unfold State.cancelUpgrade
  split
  · rename_i i hi
    have hmem : i ∈ s.queue r := List.mem_of_head? (Option.filter_eq_some_iff.mp hi).1
    obtain ⟨e, he, hr⟩ := h.entry_of_mem hmem
    have hone : ∀ d ∈ s.entry i, d.resource = r := h.resource_of_mem r i hmem
    rw [State.cancelEntry_of_entry he, hr]
    exact State.sameElsewhere_trans (s.notify_elsewhere e.client r _)
      (State.removeEntry_elsewhere _ hone)
  · exact s.sameElsewhere_refl r

/-- Without the UPGRADE entry no holder waits (R47). -/
theorem State.Waiters.not_waits_upgradeCancelled (h : s.Waiters) (hc : s.holds r c = true) :
    (s.upgradeCancelled r).waits r c = false := by
  obtain ⟨hkind, -⟩ := h.upgrades
  refine State.not_waits_iff.mpr fun i hi => ?_
  have hq : (s.upgradeCancelled r).queue r = (s.queue r).filter fun i => !s.isUpgrade i :=
    (Vec.get_set _ _ _ _).trans (if_pos rfl)
  have he : (s.upgradeCancelled r).entry i
      = if i ∈ s.queue r ∧ s.isUpgrade i = true then none else s.entry i :=
    s.get_entriesWithoutUpgrade r i
  rw [hq] at hi
  obtain ⟨hmem, hnot⟩ := List.mem_filter.mp hi
  have hnot : s.isUpgrade i = false := Bool.not_eq_true' _ ▸ hnot
  have ho : s.entryOf c i = false := Bool.eq_false_of_not_eq_true fun ho =>
    absurd (hnot.symm.trans ((hkind r c i hmem ho).trans hc)) nofun
  unfold State.entryOf at ho ⊢
  rw [he, if_neg fun e => Bool.false_ne_true (hnot.symm.trans e.2)]
  exact ho

theorem State.holds_upgradeCancelled (s : State) (r k : Res) :
    (s.upgradeCancelled r).holds k = s.holds k := by
  unfold State.holds
  rw [State.record_upgradeCancelled]

theorem State.noticeQueue_upgradeCancelled (hc : s.holds r c = true) :
    (s.upgradeCancelled r).noticeQueue c
      = { s.noticeQueue c with
          queue :=
            if s.waits r c then enqueueNotice r .claimCancelled (s.noticeQueue c).queue
            else (s.noticeQueue c).queue } := by
  refine (Vec.get_ofFn _ c).trans ?_
  rw [hc, Bool.true_and]
  cases s.waits r c <;> rfl

/-- A holder that waits is told of its entry first, and then of its lease (R87, R88). -/
theorem State.revokedNotices_upgradeCancelled {l : Lease} (hl : (s.record r).lease c = some l) :
    (s.upgradeCancelled r).revokedNotices r c
      = { s.noticeQueue c with
          queue := enqueueNotice r (.leaseRevoked l.token)
            (if s.waits r c then enqueueNotice r .claimCancelled (s.noticeQueue c).queue
             else (s.noticeQueue c).queue) } := by
  rw [State.revokedNotices_of_lease (s := s.upgradeCancelled r) hl,
    State.noticeQueue_upgradeCancelled (Option.isSome_of_mem hl)]

theorem State.revokedNotices_upgradeCancelled_of_none (hl : (s.record r).lease c = none) :
    (s.upgradeCancelled r).revokedNotices r c = s.noticeQueue c := by
  have hc : s.holds r c = false := congrArg Option.isSome hl
  have hnone : ((s.upgradeCancelled r).record r).lease c = none := hl
  unfold State.revokedNotices
  rw [hnone]
  refine (Vec.get_ofFn _ c).trans (if_neg ?_)
  rw [hc]
  nofun

/-- Each holder is involved by its notices, whether it waited or not. -/
theorem State.sessions_removed_upgradeCancelled (s : State) (r : Res) :
    ((s.upgradeCancelled r).removed r (s.holds r)).sessions
      = Vector.ofFn fun c =>
          if s.holds r c then (s.session c).setInvolves r true else s.session c := by
  refine Vec.ext fun c => ((s.upgradeCancelled r).session_removed r _ c).trans ?_
  have hsession : (s.upgradeCancelled r).session c
      = if s.holds r c && s.waits r c then (s.session c).setInvolves r true else s.session c :=
    Vec.get_ofFn _ c
  rw [Vec.get_ofFn, hsession]
  cases s.holds r c with
  | false => rfl
  | true =>
    cases s.waits r c with
    | false => rfl
    | true => exact Session.setInvolves_setInvolves _ _ _ _

/-- The deadlines that a cancelled entry leaves, by kind. -/
theorem State.ne_cancelled_wait (s : State) (r : Res) (i : PoolIx) :
    decide (∀ j ∈ s.queue r, s.isUpgrade j = true → DeadlineId.wait i ≠ .wait j)
      = !((s.queue r).contains i && s.isUpgrade i) := by
  refine Bool.eq_iff_iff.mpr ?_
  simp only [decide_eq_true_iff, ne_eq, DeadlineId.wait.injEq, Bool.not_eq_true',
    Bool.and_eq_false_iff, List.contains_eq_mem, decide_eq_false_iff_not]
  refine ⟨fun h => ?_, fun h j hj hu e => ?_⟩
  · by_cases hi : i ∈ s.queue r
    · exact .inr (Bool.eq_false_of_not_eq_true fun hu => h i hi hu rfl)
    · exact .inl hi
  · rcases h with h | h
    · exact h (e ▸ hj)
    · rw [e, hu] at h
      cases h

/-- A deadline that is neither a holder's nor a wait entry's outlives a revocation. -/
theorem State.outlives_revocation (s : State) (r : Res) {k : DeadlineId}
    (hh : ∀ c, k ≠ .hold r c) (hw : ∀ i, k ≠ .wait i) :
    (decide (∀ c, s.holds r c = true → k ≠ .hold r c)
      && decide (∀ i ∈ s.queue r, s.isUpgrade i = true → k ≠ .wait i)) = true :=
  Bool.and_eq_true_iff.mpr
    ⟨decide_eq_true fun c _ => hh c, decide_eq_true fun i _ _ => hw i⟩

theorem State.deadlines_removed_upgradeCancelled (s : State) (r : Res) :
    ((s.upgradeCancelled r).removed r (s.holds r)).deadlines
      = s.deadlines.filter fun d =>
          decide (∀ c, s.holds r c = true → d.id ≠ .hold r c)
            && decide (∀ i ∈ s.queue r, s.isUpgrade i = true → d.id ≠ .wait i) :=
  List.filter_filter

theorem State.notices_removed_upgradeCancelled (s : State) (r : Res) :
    ((s.upgradeCancelled r).removed r (s.holds r)).notices
      = Vector.ofFn fun c => (s.upgradeCancelled r).revokedNotices r c := by
  rw [← State.notices_removed, State.holds_upgradeCancelled]

/-- The removal after the cancelled entry, from what its fields are. -/
theorem State.removed_upgradeCancelled_eq {es : Vector (Option WaitEntry) 32} {ds : List Deadline}
    {ss : Vector Session 4} {ns : Vector NoticeQueue 4}
    (he : s.entriesWithoutUpgrade r = es)
    (hd : ((s.upgradeCancelled r).removed r (s.holds r)).deadlines = ds)
    (hs : ((s.upgradeCancelled r).removed r (s.holds r)).sessions = ss)
    (hn : ((s.upgradeCancelled r).removed r (s.holds r)).notices = ns) :
    (s.upgradeCancelled r).removed r (s.holds r)
      = { s with
          entries := es
          queues := Vec.set s.queues r ((s.queue r).filter fun i => !s.isUpgrade i)
          deadlines := ds, sessions := ss, notices := ns } := by
  subst he hd hs hn
  rfl

/-- A revocation at once is the cancelled entry, the removal of every holder and the event (R88). -/
theorem State.revokeAtOnce_eq (h : s.Waiters) (hh : (s.record r).holders ≠ []) :
    s.revokeAtOnce r
      = (((s.upgradeCancelled r).removed r (s.holds r)).afterLastHolder r).withEvent 9 := by
  unfold State.revokeAtOnce
  rw [State.cancelUpgrade_eq h, State.removeHolders_eq (by rwa [State.record_upgradeCancelled]),
    State.holds_upgradeCancelled]
  rfl

/-- What a holder has after a revocation at once. -/
theorem State.revokeAtOnce_holder (h : s.Waiters) {l : Lease} (hl : (s.record r).lease c = some l) :
    (s.revokeAtOnce r).holds r c = false ∧ (s.revokeAtOnce r).waits r c = false
      ∧ (s.revokeAtOnce r).armed (.hold r c) = false
      ∧ ((s.revokeAtOnce r).noticeQueue c).queue
        = enqueueNotice r (.leaseRevoked l.token)
            (if s.waits r c then enqueueNotice r .claimCancelled (s.noticeQueue c).queue
             else (s.noticeQueue c).queue) := by
  have hc : s.holds r c = true := Option.isSome_of_mem hl
  have hpool : (s.upgradeCancelled r).PoolWf := by
    rw [← State.cancelUpgrade_eq h]
    exact State.cancelUpgrade_pool h.pool r
  have hpost := State.afterLastHolder_removed hpool
    (by rw [State.holds_upgradeCancelled]; exact hc) (h.not_waits_upgradeCancelled hc)
  rw [State.holds_upgradeCancelled, State.revokedNotices_upgradeCancelled hl] at hpost
  rw [State.revokeAtOnce_eq h (List.ne_nil_of_mem (mem_holders.mpr hc))]
  generalize ((s.upgradeCancelled r).removed r (s.holds r)).afterLastHolder r = t at hpost ⊢
  obtain ⟨hholds, hwaits, hnot, hnotices⟩ := hpost
  exact ⟨hholds, hwaits, hnot, congrArg NoticeQueue.queue hnotices⟩

theorem State.revokeAtOnce_elsewhere (h : s.PoolWf) (hh : (s.record r).holders ≠ []) :
    s.sameElsewhere (s.revokeAtOnce r) r :=
  State.sameElsewhere_trans (State.sameElsewhere_trans (State.cancelUpgrade_elsewhere h r)
    (State.removeHolders_elsewhere (State.cancelUpgrade_pool h r)
      (by rwa [State.record_cancelUpgrade])))
    (State.raise_elsewhere _ _ r)

theorem State.record_afterStored (s : State) (tag : Byte) (st : Status) (payload : List Byte)
    (r : Res) : (s.afterStored tag st payload).record r = s.record r := rfl

theorem execRevoke_atOnce (hs : (s.record r).state = .held) (hg : (s.record r).attrs.grace = 0)
    (tag : Byte) :
    exec (.revoke tag [numberByte r] (goodCrc 0x45 tag [numberByte r])) s
      = .next ((s.revokeAtOnce r).afterStored tag .ok
          [countByte (s.record r).holders.length, revokeFlags true (s.upgradeHead r).isSome]) := by
  have hP : ∀ params, PortFree (revokeRequest.rule params) := portFree_revoke
  have hforced : ((s.record r).attrs.grace == 0) = true := by rw [hg]; rfl
  have hrule : revokeRequest.rule [numberByte r] s
      = s.checked (s.revokeChecks r) ((s.revokeAtOnce r).reply .ok
          [countByte (s.record r).holders.length, revokeFlags true (s.upgradeHead r).isSome]) := by
    show s.withNumber (numberByte r) s.decideRevoke = _
    unfold State.withNumber State.decideRevoke
    rw [numberBelow_numberByte (by decide) r]
    dsimp only
    rw [hforced]
    rfl
  have hpass : firstFailing (s.revokeChecks r) = none := by
    unfold State.revokeChecks
    dsimp only
    rw [hs]
    rfl
  exact congrArg Host.Outcome.next
    (State.supervisorRequest_accepted (by decide) rfl (hP _) hrule hpass)

end

theorem State.Waiters.revokeFlags_eq {s : State} (h : s.Waiters) (r : Res) :
    revokeFlags true (s.upgradeHead r).isSome = if (s.queue r).any s.isUpgrade then 3 else 1 := by
  rw [h.isSome_upgradeHead]
  cases (s.queue r).any s.isUpgrade <;> rfl

/-- Settles O36: the UPGRADE entry goes, then the removal of every holder. -/
theorem revokeAtOnceRemovesHolders : Obligations.RevokeAtOnceRemovesHolders := by
  intro s tag r hrecords hwaiters hs hg
  have h := hwaiters.waiters
  have hh : (s.record r).holders ≠ [] := (hrecords r).1.mpr (.inl hs)
  have helse := State.revokeAtOnce_elsewhere h.pool hh
  have hframe := s.revokeAtOnce_frame r
  have hrevoke := State.revokeAtOnce_eq h hh
  have hholder := fun (c : Client) (l : Lease) (hl : l ∈ (s.record r).lease c) =>
    State.revokeAtOnce_holder h hl
  have hexec := execRevoke_atOnce hs hg tag
  rw [length_holders, h.revokeFlags_eq] at hexec
  generalize s.revokeAtOnce r = t at hexec hrevoke helse hframe hholder
  refine ⟨_, hexec, ?_, ?_, fun hguard => ?_, hholder, ?_, helse, hframe.outside, hframe.cpis, rfl,
    rfl⟩
  · rw [hrevoke]
    refine congrArg (fun x => ((State.afterLastHolder x r).withEvent 9).afterStored tag .ok _)
      (State.removed_upgradeCancelled_eq (by unfold State.entriesWithoutUpgrade; rfl) ?_
        (s.sessions_removed_upgradeCancelled r) ?_)
    · refine (s.deadlines_removed_upgradeCancelled r).trans (List.filter_congr fun d _ => ?_)
      cases hd : d.id with
      | hold r' c' =>
        rw [DeadlineId.ne_removed_hold, decide_eq_true fun _ _ _ => nofun, Bool.and_true]
      | wait i => rw [State.ne_cancelled_wait, decide_eq_true fun _ _ => nofun, Bool.true_and]
      | session c' => exact s.outlives_revocation r nofun nofun
      | grace r' => exact s.outlives_revocation r nofun nofun
      | guard r' => exact s.outlives_revocation r nofun nofun
    · refine (s.notices_removed_upgradeCancelled r).trans (Vec.ext fun c => ?_)
      rw [Vec.get_ofFn, Vec.get_ofFn]
      cases hl : (s.record r).lease c with
      | none => exact State.revokedNotices_upgradeCancelled_of_none hl
      | some l => exact State.revokedNotices_upgradeCancelled hl
  · rw [State.record_afterStored, hrevoke, State.record_withEvent]
    exact State.state_afterLastHolder_ne_revoking _ r
  · rw [State.record_afterStored, hrevoke, State.record_withEvent]
    refine State.state_afterLastHolder_drains ?_
    rw [State.record_removed, State.record_upgradeCancelled]
    exact hguard
  · rw [hrevoke]
    exact State.withEvent_events _ (by decide)

end Sys2Proof.Machine
end

section
/-! PROOF. The wait pool, the queues, the UPGRADE entries and the sessions stay consistent (R46, R47,
R49, R105). The invariant speaks of one wait entry at a time and bounds the pairs (resource, client)
that hold or wait: an operation that adds no pair keeps the bound, and the end of a session narrows
it resource by resource. -/

namespace Sys2Proof.Machine

section
variable {s t : State} {Q : Res → Client → Prop}

/-! Waits and leases, entry by entry -/

/-- The pool is partitioned into the queues; each entry is the only one of its pair, is of kind
UPGRADE exactly when its client holds the resource, and then stands at the head of the queue of a
record that is not REVOKING. Only pairs in `Q` hold or wait. -/
structure State.Engaged (s : State) (Q : Res → Client → Prop) : Prop where
  pool : s.PoolWf
  one : ∀ {i j e f}, s.entry i = some e → s.entry j = some f → e.resource = f.resource →
    e.client = f.client → i = j
  kind : ∀ {i e}, s.entry i = some e →
    (e.kind = .upgrade ↔ s.holds e.resource e.client = true)
  head : ∀ {i e}, s.entry i = some e → e.kind = .upgrade →
    (s.queue e.resource).head? = some i
  steady : ∀ {i e}, s.entry i = some e → e.kind = .upgrade →
    (s.record e.resource).state ≠ .revoking
  holders : ∀ {r c}, s.holds r c = true → Q r c
  waiters : ∀ {i e}, s.entry i = some e → Q e.resource e.client

theorem State.entryOf_iff {c : Client} {i : PoolIx} :
    s.entryOf c i = true ↔ ∃ e, s.entry i = some e ∧ e.client = c := by
  unfold State.entryOf
  cases s.entry i with
  | none => simp
  | some e => simp

theorem State.isUpgrade_of_entry {i : PoolIx} {e : WaitEntry} (h : s.entry i = some e) :
    s.isUpgrade i = (e.kind == .upgrade) := by
  unfold State.isUpgrade
  rw [h]

theorem State.isUpgrade_iff {i : PoolIx} :
    s.isUpgrade i = true ↔ ∃ e, s.entry i = some e ∧ e.kind = .upgrade := by
  unfold State.isUpgrade
  cases s.entry i with
  | none => simp
  | some e => simp

theorem State.waitsOn_of_entry {i : PoolIx} {e : WaitEntry} (h : s.entry i = some e) :
    s.waitsOn i = some e.resource := by
  unfold State.waitsOn
  rw [h]
  rfl

theorem State.Waiters.engaged (h : s.Waiters) (holders : ∀ r c, s.holds r c = true → Q r c)
    (waiters : ∀ i e, s.entry i = some e → Q e.resource e.client) : s.Engaged Q := by
  obtain ⟨pool, one, kind, tail, revoking⟩ := h
  refine ⟨pool, fun {i j e f} he hf hr hc => ?_, fun {i e} he => ?_, fun {i e} he hu => ?_,
    fun {i e} he hu hs => ?_, fun {r c} => holders r c, fun {i e} => waiters i e⟩
  · refine one e.client i j (State.entryOf_iff.mpr ⟨e, he, rfl⟩)
      (State.entryOf_iff.mpr ⟨f, hf, hc.symm⟩) ?_
    rw [State.waitsOn_of_entry he, State.waitsOn_of_entry hf, hr]
  · rw [← kind e.resource e.client i (pool.mem_of_entry he) (State.entryOf_iff.mpr ⟨e, he, rfl⟩),
      State.isUpgrade_of_entry he, beq_iff_eq]
  · have hmem := pool.mem_of_entry he
    have htail := tail e.resource
    cases hq : s.queue e.resource with
    | nil => rw [hq] at hmem; cases hmem
    | cons j rest =>
      rw [hq] at hmem htail
      rcases List.mem_cons.mp hmem with rfl | hrest
      · rfl
      · exact absurd ((htail i hrest).symm.trans (State.isUpgrade_iff.mpr ⟨e, he, hu⟩)) nofun
  · exact absurd ((revoking e.resource hs i (pool.mem_of_entry he)).symm.trans
      (State.isUpgrade_iff.mpr ⟨e, he, hu⟩)) nofun

theorem State.Engaged.toWaiters (h : s.Engaged Q) : s.Waiters := by
  refine ⟨h.pool, fun c i j hi hj hw => ?_, fun r c i hi ho => ?_, fun r i hi => ?_,
    fun r hs i hi => ?_⟩
  · obtain ⟨e, he, rfl⟩ := State.entryOf_iff.mp hi
    obtain ⟨f, hf, hc⟩ := State.entryOf_iff.mp hj
    rw [State.waitsOn_of_entry he, State.waitsOn_of_entry hf] at hw
    exact h.one he hf (Option.some.inj hw) hc.symm
  · obtain ⟨e, he, rfl⟩ := h.pool.entry_of_mem hi
    obtain ⟨f, hf, rfl⟩ := State.entryOf_iff.mp ho
    obtain rfl : e = f := Option.some.inj (he.symm.trans hf)
    rw [State.isUpgrade_of_entry he, Bool.eq_iff_iff, beq_iff_eq]
    exact h.kind he
  · refine Bool.eq_false_of_not_eq_true fun hu => ?_
    obtain ⟨e, he, rfl⟩ := h.pool.entry_of_mem (List.mem_of_mem_tail hi)
    obtain ⟨f, hf, hk⟩ := State.isUpgrade_iff.mp hu
    have hhead := h.head he (Option.some.inj (he.symm.trans hf) ▸ hk)
    have hnodup := h.pool.1 e.resource
    cases hq : s.queue e.resource with
    | nil => rw [hq] at hi; cases hi
    | cons j rest =>
      rw [hq] at hi hhead hnodup
      obtain rfl : j = i := Option.some.inj hhead
      exact (List.nodup_cons.mp hnodup).1 hi
  · refine Bool.eq_false_of_not_eq_true fun hu => ?_
    obtain ⟨e, he, rfl⟩ := h.pool.entry_of_mem hi
    obtain ⟨f, hf, hk⟩ := State.isUpgrade_iff.mp hu
    exact h.steady he (Option.some.inj (he.symm.trans hf) ▸ hk) hs

/-- Whether a client waits on a resource, read off the entries (R46, R49). -/
theorem State.PoolWf.not_waits_iff (h : s.PoolWf) {r : Res} {c : Client} :
    s.waits r c = false ↔ ∀ i e, s.entry i = some e → e.resource = r → e.client ≠ c := by
  rw [State.not_waits_iff]
  constructor
  · rintro hno i e he rfl rfl
    exact absurd ((hno i (h.mem_of_entry he)).symm.trans
      (State.entryOf_iff.mpr ⟨e, he, rfl⟩)) nofun
  · intro hno i hi
    obtain ⟨e, he, hr⟩ := h.entry_of_mem hi
    refine Bool.eq_false_of_not_eq_true fun ho => ?_
    obtain ⟨f, hf, hc⟩ := State.entryOf_iff.mp ho
    exact hno i e he hr (Option.some.inj (he.symm.trans hf) ▸ hc)

/-! The bound -/

theorem State.Engaged.mono (h : s.Engaged Q) {Q' : Res → Client → Prop}
    (hQ : ∀ r c, Q r c → Q' r c) : s.Engaged Q' :=
  { h with
    holders := fun hh => hQ _ _ (h.holders hh)
    waiters := fun he => hQ _ _ (h.waiters he) }

/-- A pair that neither holds nor waits leaves the bound. -/
theorem State.Engaged.narrow (h : s.Engaged Q) {r : Res} {c : Client}
    (hh : s.holds r c = false) (hw : s.waits r c = false) :
    s.Engaged fun k d => Q k d ∧ ¬(k = r ∧ d = c) := by
  refine { h with
    holders := fun {k d} hkd => ⟨h.holders hkd, ?_⟩
    waiters := fun {i e} he => ⟨h.waiters he, ?_⟩ }
  · rintro ⟨rfl, rfl⟩
    exact absurd (hh.symm.trans hkd) nofun
  · rintro ⟨hr, hc⟩
    exact h.pool.not_waits_iff.mp hw i e he hr hc

/-! The operations on entries and slots -/

theorem SameLeases.engaged (e : SameLeases s t) (h : s.Engaged Q) : t.Engaged Q := by
  have hentry := e.entry
  refine ⟨e.poolWf h.pool, fun {i j _ _} he hf => ?_, fun {i _} he => ?_, fun {i _} he => ?_,
    fun {i _} he => ?_, fun {r c} hh => ?_, fun {i _} he => ?_⟩
  · rw [hentry] at he hf
    exact h.one he hf
  · rw [hentry] at he
    rw [e.holds]
    exact h.kind he
  · rw [hentry] at he
    rw [e.queue]
    exact h.head he
  · rw [hentry] at he
    rw [e.record]
    exact h.steady he
  · exact h.holders ((e.holds r c).symm.trans hh)
  · rw [hentry] at he
    exact h.waiters he

/-- The slots of a record change only for clients that do not wait on it, or keep their lease. -/
theorem State.Engaged.setRecord (h : s.Engaged Q) {r : Res} {x : Record}
    (same : ∀ i e, s.entry i = some e → e.resource = r →
      (x.lease e.client).isSome = s.holds r e.client)
    (steady : x.state = .revoking → ∀ i e, s.entry i = some e → e.resource = r →
      e.kind ≠ .upgrade)
    (bound : ∀ c, (x.lease c).isSome = true → Q r c) : (s.setRecord r x).Engaged Q := by
  refine ⟨h.pool.congr (fun _ => rfl) fun _ => rfl, h.one, fun {i e} he => ?_, h.head,
    fun {i e} he hk hs => ?_, fun {k c} hh => ?_, h.waiters⟩
  · rw [State.holds_setRecord]
    split
    · rename_i hr
      rw [same i e he hr, ← hr]
      exact h.kind he
    · exact h.kind he
  · rw [State.record_setRecord] at hs
    split at hs
    · rename_i hr
      exact steady hs i e he hr hk
    · exact h.steady he hk hs
  · rw [State.holds_setRecord] at hh
    split at hh
    · rename_i hr
      exact hr ▸ bound c hh
    · exact h.holders hh

/-- A record whose slots stay, in a state that is not REVOKING. -/
theorem State.Engaged.setFields (h : s.Engaged Q) {r : Res} {x : Record}
    (hl : ∀ c, (x.lease c).isSome = s.holds r c) (hs : x.state ≠ .revoking) :
    (s.setRecord r x).Engaged Q :=
  h.setRecord (fun _ e _ _ => hl e.client) (fun e => absurd e hs) fun c hc =>
    h.holders ((hl c).symm.trans hc)

theorem State.Engaged.vacate (h : s.Engaged Q) {r : Res} {c : Client}
    (hw : s.waits r c = false) : (s.vacate r c).Engaged Q := by
  refine (s.vacate_sameLeases r c).engaged (h.setRecord (fun i e he hr => ?_) (fun hs i e he hr => ?_)
    fun d hd => ?_)
  · rw [Record.lease_setLease, if_neg (h.pool.not_waits_iff.mp hw i e he hr)]
    rfl
  · subst hr
    exact fun hk => h.steady he hk hs
  · rw [Record.lease_setLease] at hd
    split at hd
    · cases hd
    · exact h.holders hd

theorem State.Engaged.removeEntry (h : s.Engaged Q) (i : PoolIx) : (s.removeEntry i).Engaged Q := by
  have old : ∀ {j e}, (s.removeEntry i).entry j = some e → j ≠ i ∧ s.entry j = some e := by
    intro j e he
    rw [State.entry_removeEntry] at he
    split at he
    · cases he
    · rename_i hj
      exact ⟨hj, he⟩
  have hrecord := s.record_removeEntry i
  have hholds : ∀ r c, (s.removeEntry i).holds r c = s.holds r c := fun r c => by
    unfold State.holds
    rw [hrecord]
  refine ⟨h.pool.removeEntry i, fun he hf => h.one (old he).2 (old hf).2, fun he => ?_,
    fun {j e} he hk => ?_, fun he => ?_, fun {r c} hh => ?_, fun he => h.waiters (old he).2⟩
  · rw [hholds]
    exact h.kind (old he).2
  · obtain ⟨hj, hs⟩ := old he
    have hhead := h.head hs hk
    cases hi : s.entry i with
    | none =>
      unfold State.removeEntry
      rw [hi]
      exact hhead
    | some f =>
      rw [State.queue_removeEntry hi]
      split
      · rename_i hr
        rw [← hr]
        obtain ⟨rest, hq⟩ := List.head?_eq_some_iff.mp hhead
        rw [hq, List.erase_cons_tail (by simpa using hj)]
        rfl
      · exact hhead
  · rw [hrecord]
    exact h.steady (old he).2
  · exact h.holders ((hholds r c).symm.trans hh)

/-- Without its entry the client waits no more (R49). -/
theorem State.Engaged.not_waits_removeEntry (h : s.Engaged Q) {i : PoolIx} {e : WaitEntry}
    (he : s.entry i = some e) : (s.removeEntry i).waits e.resource e.client = false := by
  refine (h.pool.removeEntry i).not_waits_iff.mpr fun j f hf hr hc => ?_
  rw [State.entry_removeEntry] at hf
  split at hf
  · cases hf
  · rename_i hj
    exact hj (h.one hf he hr hc)

theorem State.Engaged.cancelEntry (h : s.Engaged Q) (i : PoolIx) : (s.cancelEntry i).Engaged Q := by
  obtain ⟨u, hu, e⟩ := s.cancelEntry_eq i
  rw [e]
  exact (hu.engaged h).removeEntry i

theorem State.Engaged.cancelQueue (h : s.Engaged Q) (r : Res) : (s.cancelQueue r).Engaged Q :=
  List.foldlRecOn (motive := fun u : State => u.Engaged Q) _ _ h fun _ hu i _ => hu.cancelEntry i

theorem State.Engaged.cancelUpgrade (h : s.Engaged Q) (r : Res) :
    (s.cancelUpgrade r).Engaged Q := by
  unfold State.cancelUpgrade
  split
  · exact h.cancelEntry _
  · exact h

theorem State.Engaged.removeUpgrade (h : s.Engaged Q) (r : Res) (c : Client) :
    (s.removeUpgrade r c).Engaged Q := by
  unfold State.removeUpgrade
  split
  · exact h.removeEntry _
  · exact h

/-- A new entry: the only one of its pair, and of kind UPGRADE at the head where its client holds the
resource (R31, R55). -/
theorem State.Engaged.allocate (h : s.Engaged Q) {i : PoolIx} {e : WaitEntry} {q : List PoolIx}
    (wait : Ticks) (free : s.entry i = none) (hq : q.Perm (i :: s.queue e.resource))
    (fresh : s.waits e.resource e.client = false)
    (kind : e.kind = .upgrade ↔ s.holds e.resource e.client = true)
    (head : ∀ j f, s.entry j = some f → f.resource = e.resource → f.kind = .upgrade →
      q.head? = some j)
    (first : e.kind = .upgrade → q.head? = some i ∧ (s.record e.resource).state ≠ .revoking)
    (bound : Q e.resource e.client) : (s.allocate i e q wait).Engaged Q := by
  have cases_entry : ∀ {j f}, (s.allocate i e q wait).entry j = some f →
      (j = i ∧ f = e) ∨ s.entry j = some f := by
    intro j f hf
    rw [State.entry_allocate] at hf
    split at hf
    · rename_i hj
      exact .inl ⟨hj, (Option.some.inj hf).symm⟩
    · exact .inr hf
  have alone := h.pool.not_waits_iff.mp fresh
  have hrecord := s.record_allocate i e q wait
  have hholds : ∀ r c, (s.allocate i e q wait).holds r c = s.holds r c := fun r c => by
    unfold State.holds
    rw [hrecord]
  refine ⟨h.pool.allocate wait free hq, fun {j k f g} hf hg hr hc => ?_, fun hf => ?_,
    fun {j f} hf hk => ?_, fun hf hk => ?_, fun {r c} hh => ?_, fun hf => ?_⟩
  · rcases cases_entry hf with ⟨hj, rfl⟩ | hf' <;> rcases cases_entry hg with ⟨hk, rfl⟩ | hg'
    · exact hj.trans hk.symm
    · exact absurd hc.symm (alone k g hg' hr.symm)
    · exact absurd hc (alone j f hf' hr)
    · exact h.one hf' hg' hr hc
  · rw [hholds]
    rcases cases_entry hf with ⟨rfl, rfl⟩ | hf
    · exact kind
    · exact h.kind hf
  · rw [State.queue_allocate]
    rcases cases_entry hf with ⟨rfl, rfl⟩ | hf
    · rw [if_pos rfl]
      exact (first hk).1
    · split
      · rename_i hr
        exact head j f hf hr hk
      · exact h.head hf hk
  · rw [hrecord]
    rcases cases_entry hf with ⟨rfl, rfl⟩ | hf
    · exact (first hk).2
    · exact h.steady hf hk
  · exact h.holders ((hholds r c).symm.trans hh)
  · rcases cases_entry hf with ⟨rfl, rfl⟩ | hf
    · exact bound
    · exact h.waiters hf

/-! Grants -/

/-- A grant to a client that holds the resource already, or does not wait on it. -/
theorem State.Engaged.grant (h : s.Engaged Q) {r : Res} {c : Client} (m : Mode) (hold : Ticks)
    (hc : s.holds r c = true ∨ s.waits r c = false) (bound : Q r c) :
    (s.grant r c m hold).Engaged Q := by
  have hentry := s.grant_entry r c m hold
  refine ⟨h.pool.congr (s.queue_grant r c m hold) hentry, fun he hf => ?_, fun {i e} he => ?_,
    fun he => ?_, fun {i e} he hk hs => ?_, fun {k d} hh => ?_, fun he => ?_⟩
  · rw [hentry] at he hf
    exact h.one he hf
  · rw [hentry] at he
    rw [State.holds_grant]
    split
    · rename_i hpair
      refine (h.kind he).trans (iff_of_true ?_ rfl)
      rw [hpair.1, hpair.2]
      exact hc.resolve_right fun hw => h.pool.not_waits_iff.mp hw i e he hpair.1 hpair.2
    · exact h.kind he
  · rw [hentry] at he
    rw [State.queue_grant]
    exact h.head he
  · rw [hentry] at he
    rw [State.record_grant] at hs
    split at hs
    · cases hs
    · exact h.steady he hk hs
  · rw [State.holds_grant] at hh
    split at hh
    · rename_i hpair
      rw [hpair.1, hpair.2]
      exact bound
    · exact h.holders hh
  · rw [hentry] at he
    exact h.waiters he

theorem State.Engaged.grantEntry (h : s.Engaged Q) {i : PoolIx} {e : WaitEntry}
    (he : s.entry i = some e) : (s.grantEntry e.resource i e).Engaged Q :=
  (State.notify_sameLeases _ _ _ _).engaged
    ((h.removeEntry i).grant _ _ (.inr (h.not_waits_removeEntry he)) (h.waiters he))

theorem State.Engaged.grantHeads (h : s.Engaged Q) {r : Res} (q : List PoolIx)
    (hq : ∀ i ∈ q, ∀ e ∈ s.entry i, e.resource = r) : (s.grantHeads r q).Engaged Q := by
  induction q generalizing s with
  | nil => exact h
  | cons i rest ih =>
    by_cases stops : ∀ e ∈ s.entry i, s.exhausted = true ∨ (s.record r).compatible e = false
    · rw [State.grantHeads_cons_stopped stops]
      exact h
    · push Not at stops
      obtain ⟨e, he, hx, hc⟩ := stops
      obtain rfl : e.resource = r := hq i List.mem_cons_self e he
      rw [State.grantHeads_cons_granted he (Bool.eq_false_of_not_eq_true hx)
        (Bool.eq_true_of_not_eq_false hc)]
      refine ih (h.grantEntry he) fun j hj f hf => ?_
      rw [State.grantEntry_entry] at hf
      exact hq j (List.mem_cons_of_mem _ hj) f (s.removeEntry_entry i j f hf)

theorem State.Engaged.grantRule (h : s.Engaged Q) (r : Res) : (s.grantRule r).Engaged Q := by
  unfold State.grantRule
  split
  · exact h.grantHeads _ (h.pool.resource_of_mem r)
  · exact h

/-! The release path -/

theorem State.Engaged.lastHolderLeft (h : s.Engaged Q) {r : Res}
    (hh : (s.record r).holders = []) : (s.lastHolderLeft r).Engaged Q := by
  have none_holds := State.holds_of_no_holders hh
  have ht : SameLeases s (if (s.record r).state = .revoking then s.disarm (.grace r) else s) := by
    split
    · exact s.disarm_sameLeases _
    · exact .refl s
  unfold State.lastHolderLeft
  dsimp only
  generalize (if (s.record r).state = .revoking then s.disarm (.grace r) else s) = u at ht ⊢
  have hu := ht.engaged h
  split
  · exact (State.arm_sameLeases _ _ _).engaged (hu.setFields (fun c => (ht.holds r c).symm) nofun)
  · split
    · refine hu.setFields (fun c => ?_) nofun
      rw [ht.holds, none_holds, Record.cleared_lease]
      rfl
    · exact (hu.setFields (r := r)
        (x := { s.record r with state := .idle, heldMode := none, deadline := .absent })
        (fun c => (ht.holds r c).symm) nofun).grantRule r

theorem State.Engaged.endLease (h : s.Engaged Q) {r : Res} {c : Client}
    (hw : s.waits r c = false) (quiet : Bool) : (s.endLease r c quiet).Engaged Q := by
  have hv := h.vacate hw
  by_cases hlast : ((s.record r).setLease c none).holders = []
  · rw [State.endLease_of_last quiet hlast]
    exact hv.lastHolderLeft (by rw [State.record_vacate_self]; exact hlast)
  · rw [State.endLease_of_more quiet hlast]
    split
    · exact hv.grantRule r
    · exact hv

/-- The client's UPGRADE entry goes before its lease (R35, R42). -/
theorem State.Engaged.leave (h : s.Engaged Q) {r : Res} {c : Client} (hc : s.holds r c = true) :
    ((s.removeUpgrade r c).endLease r c false).Engaged Q :=
  (h.removeUpgrade r c).endLease (h.toWaiters.not_waits_removeUpgrade hc) false

/-- The removal of every holder, where none of them waits (R88, R91). -/
theorem State.Engaged.removeHolders (h : s.Engaged Q) {r : Res}
    (hh : (s.record r).holders ≠ []) (plain : ∀ i ∈ s.queue r, s.isUpgrade i = false) :
    (s.removeHolders r).Engaged Q := by
  have calm : ∀ (u : State) (c : Client) (w : ResourceWord), c ∈ (u.record r).holders →
      u.Engaged Q → (∀ i ∈ u.queue r, u.isUpgrade i = false) →
      ((u.notify c r w).vacate r c).Engaged Q := by
    intro u c w hc hu hplain
    have hw : u.waits r c = false := hu.pool.not_waits_iff.mpr fun i e he hr hcl => by
      subst hr hcl
      have hk := (hu.kind he).mpr (mem_holders.mp hc)
      exact absurd ((hplain i (hu.pool.mem_of_entry he)).symm.trans
        (State.isUpgrade_iff.mpr ⟨e, he, hk⟩)) nofun
    have hn := u.notify_sameLeases c r w
    exact (hn.engaged hu).vacate ((hn.waits r c).trans hw)
  refine State.removeHolders_induct
    (I := fun u => u.Engaged Q ∧ ∀ i ∈ u.queue r, u.isUpgrade i = false)
    (J := fun u => u.Engaged Q) ?_ ?_ hh ⟨h, plain⟩
  · rintro u c rest hu hrest ⟨hI, hplain⟩
    obtain ⟨w, e, -⟩ := State.removeHolder_of_more hu hrest
    rw [e]
    refine ⟨calm u c w (hu ▸ List.mem_cons_self) hI hplain, fun i hi => ?_⟩
    rw [State.queue_vacate] at hi
    unfold State.isUpgrade
    rw [State.entry_vacate]
    exact hplain i hi
  · rintro u c hu ⟨hI, hplain⟩
    obtain ⟨w, e⟩ := State.removeHolder_of_last hu
    rw [e]
    refine (calm u c w (hu ▸ List.mem_cons_self) hI hplain).lastHolderLeft ?_
    rw [State.record_vacate_self, (u.notify_sameLeases c r w).record,
      Record.holders_setLease_none, hu, List.erase_cons_head]

/-- Once the UPGRADE entry is cancelled no entry of kind UPGRADE is left in the queue (R87). -/
theorem State.Engaged.cancelUpgrade_plain (h : s.Engaged Q) (r : Res) :
    ∀ i ∈ (s.cancelUpgrade r).queue r, (s.cancelUpgrade r).isUpgrade i = false := by
  rw [State.cancelUpgrade_eq h.toWaiters]
  intro i hi
  have hq : (s.upgradeCancelled r).queue r = (s.queue r).filter fun i => !s.isUpgrade i :=
    (Vec.get_set _ _ _ _).trans (if_pos rfl)
  rw [hq] at hi
  obtain ⟨-, hnot⟩ := List.mem_filter.mp hi
  have hnot : s.isUpgrade i = false := Bool.not_eq_true' _ ▸ hnot
  have he : (s.upgradeCancelled r).entry i
      = if i ∈ s.queue r ∧ s.isUpgrade i = true then none else s.entry i :=
    s.get_entriesWithoutUpgrade r i
  unfold State.isUpgrade at hnot ⊢
  rw [he, if_neg fun e => Bool.false_ne_true (hnot.symm.trans e.2)]
  exact hnot

/-! The mass release (R111) -/

theorem State.Engaged.dropWait (h : s.Engaged Q) (c : Client) (r : Res) :
    (s.dropWait c r).Engaged Q ∧ (s.dropWait c r).waits r c = false := by
  unfold State.dropWait
  cases hw : s.waitOf r c with
  | none => exact ⟨h, by unfold State.waits; rw [hw]; rfl⟩
  | some i =>
    obtain ⟨e, he, rfl⟩ := h.pool.entry_of_mem (List.mem_of_find?_eq_some hw)
    obtain ⟨f, hf, rfl⟩ := State.entryOf_iff.mp (List.find?_some hw)
    obtain rfl : e = f := Option.some.inj (he.symm.trans hf)
    have hr := h.removeEntry i
    have hnot := h.not_waits_removeEntry he
    exact ⟨hr.grantRule _, (State.grantRule_gainsNothing hr.pool hnot).not_waits hnot⟩

theorem State.Engaged.releaseResource (h : s.Engaged Q) (c : Client) (r : Res) :
    (State.releaseResource c s r).Engaged fun k d => Q k d ∧ ¬(k = r ∧ d = c) := by
  obtain ⟨hd, hw⟩ := h.dropWait c r
  unfold State.releaseResource State.dropLease
  split
  · rename_i hc
    have ended := State.endLease_ended hd.pool hw hc
    exact (hd.endLease hw false).narrow ended.not_holds ended.not_waits
  · rename_i hc
    exact hd.narrow (Bool.eq_false_of_not_eq_true hc) hw

theorem State.Engaged.releaseResources (h : s.Engaged Q) (c : Client) (l : List Res) :
    (l.foldl (State.releaseResource c) s).Engaged fun k d => Q k d ∧ ¬(k ∈ l ∧ d = c) := by
  induction l generalizing s Q with
  | nil => exact h.mono fun k d hQ => ⟨hQ, fun e => absurd e.1 List.not_mem_nil⟩
  | cons r rest ih =>
    refine (ih (h.releaseResource c r)).mono fun k d => ?_
    rintro ⟨⟨hQ, hr⟩, hrest⟩
    refine ⟨hQ, fun ⟨hk, hd⟩ => ?_⟩
    rcases List.mem_cons.mp hk with e | hk
    · exact hr ⟨e, hd⟩
    · exact hrest ⟨hk, hd⟩

/-- After the mass release the client neither holds nor waits. -/
theorem State.Engaged.massRelease (h : s.Engaged Q) (c : Client) :
    (s.massRelease c).Engaged fun k d => Q k d ∧ d ≠ c :=
  (State.discardNotices_sameLeases _ c).engaged
    ((h.releaseResources c allResources).mono fun _ _ ⟨hQ, hl⟩ =>
      ⟨hQ, fun hd => hl ⟨List.mem_finRange _, hd⟩⟩)

end

end Sys2Proof.Machine
end

section
/-! PROOF. The consistency of waiters and sessions, event by event (R46, R47, R49, R105). -/

namespace Sys2Proof.Machine

section
variable {s t : State}

/-! The invariant -/

/-- The records agree with their states, only ATTACHED clients hold or wait, and the others have
session TTL 0. -/
structure State.Consistent (s : State) : Prop where
  records : s.RecordsWf
  engaged : s.Engaged fun _ c => s.attached c = true
  ttl : ∀ c, s.attached c = false → (s.session c).ttl = 0

theorem State.consistent_iff : s.Consistent ↔ s.RecordsWf ∧ s.WaitersWf := by
  constructor
  · rintro ⟨records, engaged, ttl⟩
    obtain ⟨pool, one, upgrades⟩ := engaged.toWaiters
    refine ⟨records, pool, one, upgrades, fun c hc => ⟨ttl c hc, fun r => ?_, fun i => ?_⟩⟩
    · exact Bool.eq_false_of_not_eq_true fun hh =>
        absurd (hc.symm.trans (engaged.holders hh)) nofun
    · refine Bool.eq_false_of_not_eq_true fun ho => ?_
      obtain ⟨e, he, rfl⟩ := State.entryOf_iff.mp ho
      exact absurd (hc.symm.trans (engaged.waiters he)) nofun
  · rintro ⟨records, waiters⟩
    have hw := waiters.waiters
    obtain ⟨-, -, -, sessions⟩ := waiters
    refine ⟨records, hw.engaged (fun r c hh => ?_) fun i e he => ?_, fun c hc => (sessions c hc).1⟩
    · refine Bool.eq_true_of_not_eq_false fun hc => ?_
      obtain ⟨-, holds, -⟩ := sessions c hc
      exact absurd ((holds r).symm.trans hh) nofun
    · refine Bool.eq_true_of_not_eq_false fun hc => ?_
      obtain ⟨-, -, entries⟩ := sessions e.client hc
      exact absurd ((entries i).symm.trans (State.entryOf_iff.mpr ⟨e, he, rfl⟩)) nofun

theorem State.attached_of_sameSession {c : Client} (h : s.sameSession t c) :
    t.attached c = s.attached c := by
  obtain ⟨port, -⟩ := h
  unfold State.attached
  rw [port]

/-- What leaves the sessions as they are. -/
theorem State.Consistent.follow (h : s.Consistent) (sessions : ∀ c, s.sameSession t c)
    (records : t.RecordsWf) (engaged : t.Engaged fun _ c => s.attached c = true) :
    t.Consistent := by
  have attached : ∀ c, t.attached c = s.attached c := fun c =>
    State.attached_of_sameSession (sessions c)
  refine ⟨records, engaged.mono fun _ c hc => (attached c).trans hc, fun c hc => ?_⟩
  obtain ⟨-, -, ttl, -⟩ := sessions c
  rw [ttl]
  exact h.ttl c ((attached c).symm.trans hc)

theorem SameLeases.consistent (e : SameLeases s t) (sessions : ∀ c, s.sameSession t c)
    (h : s.Consistent) : t.Consistent :=
  h.follow sessions (e.recordsWf h.records) (e.engaged h.engaged)

theorem SameCore.sameSession (h : SameCore s t) (c : Client) : s.sameSession t c := by
  unfold State.sameSession State.session
  rw [h.sessions]
  exact ⟨rfl, rfl, rfl, rfl⟩

theorem State.consistent_of_empty (records : s.RecordsWf) (holds : ∀ r c, s.holds r c = false)
    (entry : ∀ i, s.entry i = none) (queue : ∀ r, s.queue r = [])
    (ttl : ∀ c, (s.session c).ttl = 0) : s.Consistent := by
  have noEntry : ∀ {i e}, s.entry i ≠ some e := fun {i e} he => by rw [entry i] at he; cases he
  have noHolder : ∀ {r c}, s.holds r c ≠ true := fun {r c} hh => by rw [holds r c] at hh; cases hh
  exact ⟨records, ⟨(State.rested_of_empty entry queue).pool, fun he => absurd he noEntry,
    fun he => absurd he noEntry, fun he => absurd he noEntry, fun he => absurd he noEntry,
    fun hh => absurd hh noHolder, fun he => absurd he noEntry⟩, fun c _ => ttl c⟩

/-! Sessions -/

/-- The end of a session whose client neither holds nor waits (R111). -/
theorem State.Consistent.endSession (h : s.Consistent) {c : Client}
    (gone : s.Engaged fun _ d => s.attached d = true ∧ d ≠ c) {ended : PortState} :
    (s.endSession c ended).Consistent := by
  have hsame := s.endSession_sameLeases c ended
  have other : ∀ {d}, d ≠ c → (s.endSession c ended).session d = s.session d := fun {d} hd =>
    (s.session_setSession c _ d).trans (if_neg hd)
  refine ⟨hsame.recordsWf h.records, (hsame.engaged gone).mono fun _ d ⟨ha, hd⟩ => ?_,
    fun d hd => ?_⟩
  · unfold State.attached at ha ⊢
    rwa [other hd]
  · by_cases hdc : d = c
    · rw [hdc]
      exact congrArg Session.ttl (s.session_setSession_self c _)
    · rw [other hdc]
      refine h.ttl d ?_
      unfold State.attached at hd ⊢
      rwa [other hdc] at hd

/-- The mass release leaves the ending client nothing, and the others' sessions. -/
theorem State.Consistent.massRelease (h : s.Consistent) (c : Client) :
    (s.massRelease c).Consistent
      ∧ (s.massRelease c).Engaged fun _ d => (s.massRelease c).attached d = true ∧ d ≠ c := by
  have sessions := (s.massRelease_frame c).sessions
  have released := h.engaged.massRelease c
  refine ⟨h.follow sessions (h.records.massRelease c) (released.mono fun _ _ hd => hd.1),
    released.mono fun _ d ⟨ha, hd⟩ => ⟨?_, hd⟩⟩
  rw [State.attached_of_sameSession (sessions d)]
  exact ha

theorem State.placeSessionNotice_frame (s : State) (c : Client) (n : Notice) :
    LeaseFrame s (s.placeSessionNotice c n) := s.setNoticeQueue_frame c [n]

theorem State.Consistent.disarm (h : s.Consistent) (id : DeadlineId) : (s.disarm id).Consistent :=
  (s.disarm_sameLeases id).consistent (s.disarm_frame id).sessions h

theorem State.Consistent.closeNow (h : s.Consistent) (c : Client) : (s.closeNow c).Consistent := by
  obtain ⟨released, gone⟩ := (h.disarm (.session c)).massRelease c
  exact released.endSession gone

/-- The session ends with its notice placed (R113, R115). -/
theorem State.Consistent.endWithNotice (h : s.Consistent) (c : Client) (n : Notice)
    (ended : PortState) :
    (((s.massRelease c).placeSessionNotice c n).endSession c ended).Consistent := by
  obtain ⟨released, gone⟩ := h.massRelease c
  have hsame := (s.massRelease c).placeSessionNotice_sameLeases c n
  have sessions := ((s.massRelease c).placeSessionNotice_frame c n).sessions
  refine (hsame.consistent sessions released).endSession ((hsame.engaged gone).mono fun _ d hd => ?_)
  rw [State.attached_of_sameSession (sessions d)]
  exact hd

theorem State.Consistent.evictNow (h : s.Consistent) (c : Client) : (s.evictNow c).Consistent :=
  (h.disarm (.session c)).endWithNotice c _ _

theorem State.Consistent.lapseNow (h : s.Consistent) (c : Client) : (s.lapseNow c).Consistent :=
  (State.raise_sameLeases _ _).consistent (State.raise_frame _ _).sessions (h.endWithNotice c _ _)

theorem State.session_openNow (s : State) (c : Client) (ttl : Ticks) (d : Client) :
    (s.openNow c ttl).session d
      = if d = c then
          { s.session c with port := .attached, number := nextSession (s.session c).number, ttl }
        else s.session d := by
  unfold State.openNow
  dsimp only
  rw [State.session_setNoticeQueue]
  split
  · rw [State.arm_eq]
    exact State.session_setSession ..
  · exact State.session_setSession ..

theorem State.Consistent.openNow (h : s.Consistent) (c : Client) (ttl : Ticks) :
    (s.openNow c ttl).Consistent := by
  have hsame := s.openNow_sameLeases c ttl
  refine ⟨hsame.recordsWf h.records, (hsame.engaged h.engaged).mono fun _ d hd => ?_,
    fun d hd => ?_⟩
  · unfold State.attached at hd ⊢
    rw [State.session_openNow]
    split
    · rfl
    · exact hd
  · unfold State.attached at hd
    rw [State.session_openNow] at hd ⊢
    split at hd
    · cases hd
    · rename_i hdc
      rw [if_neg hdc]
      exact h.ttl d hd

/-! The deliveries -/

theorem State.Consistent.holdExpired (h : s.Consistent) (r : Res) (c : Client) :
    (s.holdExpired r c).Consistent := by
  have records := h.records.holdExpired r c
  unfold State.holdExpired at records ⊢
  split at records
  · rename_i l hl
    have hn := (s.notify_sameLeases c r (.leaseExpired l.token)).engaged h.engaged
    exact h.follow (((s.notify_frame c r _).trans (State.removeUpgrade_frame _ r c)).trans
      (State.endLease_frame _ r c false)).sessions records (hn.leave (Option.isSome_of_mem hl))
  · exact h

theorem State.Consistent.waitExpired (h : s.Consistent) (i : PoolIx) :
    (s.waitExpired i).Consistent := by
  have records := h.records.waitExpired i
  unfold State.waitExpired at records ⊢
  split at records
  · rename_i e _
    have hn := (s.notify_sameLeases e.client e.resource .claimTimedOut).engaged h.engaged
    exact h.follow (((s.notify_frame _ _ _).trans (State.removeEntry_frame _ i)).trans
      (State.grantRule_frame _ _)).sessions records ((hn.removeEntry i).grantRule _)
  · exact h

theorem State.Consistent.graceExpired (h : s.Consistent) (r : Res) :
    (s.graceExpired r).Consistent := by
  have records := h.records.graceExpired r
  unfold State.graceExpired at records ⊢
  by_cases hd : (s.record r).deadline = .grace
  · rw [if_pos hd] at records ⊢
    obtain ⟨hheld, hgrace, -⟩ := h.records r
    have hs : (s.record r).state = .revoking := hgrace.mp hd
    have hh : (s.record r).holders ≠ [] := hheld.mpr (.inr hs)
    obtain ⟨-, -, revoking⟩ := h.engaged.toWaiters.upgrades
    exact h.follow ((s.removeHolders_frame r).trans (State.raise_frame _ _)).sessions records
      ((State.raise_sameLeases _ _).engaged (h.engaged.removeHolders hh (revoking r hs)))
  · rw [if_neg hd]
    exact h

/-- A record without holders is rewritten without leases, in a state that is not REVOKING. -/
theorem State.Engaged.setVacant {Q : Res → Client → Prop} (h : s.Engaged Q) {r : Res} {x : Record}
    (hh : (s.record r).holders = []) (hx : x.holders = []) (hs : x.state ≠ .revoking) :
    (s.setRecord r x).Engaged Q := by
  refine h.setFields (fun c => ?_) hs
  rw [State.holds_of_no_holders hh]
  refine Bool.eq_false_of_not_eq_true fun hc => ?_
  exact absurd (hx ▸ mem_holders.mpr hc) List.not_mem_nil

theorem State.Consistent.guardExpired (h : s.Consistent) (r : Res) :
    (s.guardExpired r).Consistent := by
  have records := h.records.guardExpired r
  unfold State.guardExpired at records ⊢
  dsimp only at records ⊢
  by_cases hd : (s.record r).deadline = .guard
  · rw [if_pos hd] at records ⊢
    obtain ⟨-, -, hguard, -⟩ := h.records r
    have hs : (s.record r).state = .draining := hguard.mp hd
    have hh : (s.record r).holders = [] := (h.records r).holders_nil (by simp [hs]) (by simp [hs])
    by_cases hr : (s.record r).retirePending = true
    · rw [if_pos hr] at records ⊢
      exact h.follow (s.setRecord_frame r _).sessions records
        (h.engaged.setVacant hh Record.cleared_holders nofun)
    · rw [if_neg hr] at records ⊢
      exact h.follow ((s.setRecord_frame r _).trans (State.grantRule_frame _ r)).sessions records
        ((h.engaged.setVacant (x := { s.record r with state := .idle, deadline := .absent }) hh hh
          nofun).grantRule r)
  · rw [if_neg hd]
    exact h

theorem State.Consistent.deliver (h : s.Consistent) (id : DeadlineId) :
    (s.deliver id).Consistent := by
  cases id with
  | hold r c => exact h.holdExpired r c
  | wait i => exact h.waitExpired i
  | session c =>
    show (s.sessionExpired c).Consistent
    unfold State.sessionExpired
    split
    · exact h.lapseNow c
    · exact h
  | grace r => exact h.graceExpired r
  | guard r => exact h.guardExpired r

/-! Requests that queue -/

/-- A claim joins the tail (R31). -/
theorem State.Engaged.claimQueued {Q : Res → Client → Prop} (h : s.Engaged Q) {c : Client} {r : Res}
    {m : Mode} (hold wait : Ticks) {i : PoolIx} (hh : s.holds r c = false)
    (hw : s.waits r c = false) (free : s.freeIndex = some i) (bound : Q r c) :
    (s.allocate i { resource := r, client := c, kind := m.waitKind, hold } (s.queue r ++ [i])
      wait).Engaged Q := by
  have hkind : m.waitKind ≠ .upgrade := by cases m <;> nofun
  refine h.allocate wait (State.entry_freeIndex free) (List.perm_append_singleton i _) hw
    (iff_of_false hkind fun e => absurd (hh.symm.trans e) nofun) (fun j f hf hr hk => ?_)
    (fun e => absurd e hkind) bound
  have hhead := h.head hf hk
  rw [hr] at hhead
  rw [List.head?_append, hhead]
  rfl

/-- What an upgrade's checks say of the queue: no entry of kind UPGRADE stands in it (R53). -/
theorem State.upgradeChecks_plain {c : Client} {r : Res}
    (hc : firstFailing (s.upgradeChecks c r) = none) :
    s.holds r c = true ∧ (s.record r).state ≠ .revoking
      ∧ ∀ i ∈ s.queue r, s.isUpgrade i = false := by
  obtain ⟨hholds, -, -, -, hstate, hown, hother, -⟩ : s.holds r c = true
      ∧ (s.record r).heldMode ≠ some .exclusive ∧ (s.record r).attrs.modes ≠ .sharedOnly
      ∧ (s.record r).retirePending = false ∧ (s.record r).state ≠ .revoking
      ∧ s.upgradeWaits r c true = false ∧ s.upgradeWaits r c false = false
      ∧ s.exhausted = false := by
    simpa [firstFailing_eq_none, State.upgradeChecks] using hc
  refine ⟨hholds, hstate, fun i hi => Bool.eq_false_of_not_eq_true fun hu => ?_⟩
  have hown := List.any_eq_false.mp hown i hi
  have hother := List.any_eq_false.mp hother i hi
  rw [hu, Bool.true_and] at hown hother
  cases ho : s.entryOf c i with
  | true => exact hown (by rw [ho]; rfl)
  | false => exact hother (by rw [ho]; rfl)

/-- An upgrade joins the head (R55). -/
theorem State.Engaged.upgradeQueued {Q : Res → Client → Prop} (h : s.Engaged Q) {c : Client}
    {r : Res} (hold wait : Ticks) {i : PoolIx} (checks : firstFailing (s.upgradeChecks c r) = none)
    (free : s.freeIndex = some i) (bound : Q r c) :
    (s.allocate i { resource := r, client := c, kind := .upgrade, hold } (i :: s.queue r)
      wait).Engaged Q := by
  obtain ⟨hh, hs, plain⟩ := State.upgradeChecks_plain checks
  have noUpgrade : ∀ j f, s.entry j = some f → f.resource = r → f.kind ≠ .upgrade := by
    rintro j f hf rfl hk
    exact absurd ((plain j (h.pool.mem_of_entry hf)).symm.trans
      (State.isUpgrade_iff.mpr ⟨f, hf, hk⟩)) nofun
  refine h.allocate wait (State.entry_freeIndex free) (List.Perm.refl _)
    (h.pool.not_waits_iff.mpr fun j f hf hr hcl => ?_) (iff_of_true rfl hh)
    (fun j f hf hr hk => absurd hk (noUpgrade j f hf hr)) (fun _ => ⟨rfl, hs⟩) bound
  subst hr hcl
  exact noUpgrade j f hf rfl ((h.kind hf).mpr hh)

/-! REVOKE -/

/-- A revocation with grace leaves no entry of kind UPGRADE on the REVOKING record (R87, R89). -/
theorem State.Engaged.revokeWithGrace {Q : Res → Client → Prop} (h : s.Engaged Q) (r : Res) :
    (s.revokeWithGrace r).Engaged Q := by
  have plain := h.cancelUpgrade_plain r
  have hc := h.cancelUpgrade r
  unfold State.revokeWithGrace
  dsimp only
  generalize s.cancelUpgrade r = u at plain hc ⊢
  have hw := SameLeases.foldl (fun v c => v.warnHolder_sameLeases r c) (u.record r).holders u
  generalize (u.record r).holders.foldl (State.warnHolder r) u = v at hw ⊢
  refine (State.arm_sameLeases _ _ _).engaged ((hw.engaged hc).setRecord (fun _ _ _ _ => rfl)
    (fun _ i e he hr hk => ?_) fun c hcl => (hw.engaged hc).holders hcl)
  rw [hw.entry] at he
  subst hr
  exact absurd ((plain i (hc.pool.mem_of_entry he)).symm.trans
    (State.isUpgrade_iff.mpr ⟨e, he, hk⟩)) nofun

theorem State.Engaged.revokeAtOnce {Q : Res → Client → Prop} (h : s.Engaged Q) {r : Res}
    (hh : (s.record r).holders ≠ []) : (s.revokeAtOnce r).Engaged Q :=
  (State.raise_sameLeases _ _).engaged ((h.cancelUpgrade r).removeHolders
    (by rwa [State.record_cancelUpgrade]) (h.cancelUpgrade_plain r))

/-! The events -/

theorem State.clearAllNow_consistent (s : State) (records : s.clearAllNow.RecordsWf) :
    s.clearAllNow.Consistent := by
  refine State.consistent_of_empty records (fun r c => ?_) (fun i => Vec.get_replicate _ i)
    (fun r => Vec.get_replicate _ r) fun c => ?_
  · have hrecord : s.clearAllNow.record r = (s.record r).atRest := Vec.get_map _ _ r
    have hlease : (s.record r).atRest.lease c = none := by
      unfold Record.atRest
      split <;> exact Vec.get_replicate _ c
    unfold State.holds
    rw [hrecord, hlease]
    rfl
  · exact congrArg Session.ttl (Vec.get_map Session.atRest s.sessions c)

theorem State.reset_consistent : State.reset.Consistent :=
  State.consistent_iff.mpr ⟨State.reset_recordsWf, State.reset_waitersWf⟩

/-- A session update that keeps port state, number, TTL and policy but for the one written. -/
theorem State.Consistent.setPolicy (h : s.Consistent) (c : Client) (p : Policy) :
    (s.setSession c { s.session c with policy := p }).Consistent := by
  have hsame := s.setSession_sameLeases c { s.session c with policy := p }
  have port : ∀ d, (s.setSession c { s.session c with policy := p }).attached d = s.attached d := by
    intro d
    unfold State.attached
    rw [State.session_setSession]
    split
    · rename_i hd
      rw [hd]
    · rfl
  refine ⟨hsame.recordsWf h.records, (hsame.engaged h.engaged).mono fun _ d hd =>
    (port d).trans hd, fun d hd => ?_⟩
  have httl := h.ttl d ((port d).symm.trans hd)
  rw [State.session_setSession]
  split
  · rename_i hdc
    rwa [← hdc]
  · exact httl

theorem Event.keeps_consistent (s t : State) (e : Event s t) (h : s.Consistent) :
    t.Consistent := by
  have records : t.RecordsWf := e.keeps_recordsWf s t h.records
  cases e with
  | outside same => exact same.leases.consistent same.sameSession h
  | deviceReset same => exact same.leases.consistent same.sameSession State.reset_consistent
  | clearAll => exact s.clearAllNow_consistent records
  | tick =>
    exact State.tick_keeps (P := State.Consistent)
      (fun u t hu => (u.setClock_sameLeases t).consistent (fun _ => ⟨rfl, rfl, rfl, rfl⟩) hu)
      (fun u d rest _ hu => ((u.setDeadlines_sameLeases rest).consistent
        (u.setDeadlines_frame rest).sessions hu).deliver d.id) h
  | expiry id _ => exact (h.disarm id).deliver id
  | kept c => exact (s.keepSession_sameLeases c).consistent (s.keepSession_frame c).sessions h
  | opened c ttl _ => exact h.openNow c ttl
  | closed c _ => exact h.closeNow c
  | evicted c _ => exact h.evictNow c
  | policySet c p => exact h.setPolicy c p
  | fetched c n rest _ =>
    exact ((s.setNoticeQueue_sameLeases c _).trans (State.reportRemoved_sameLeases _ c n)).consistent
      ((s.setNoticeQueue_frame c rest).trans (State.reportRemoved_frame _ c n)).sessions h
  | attentionSet c m _ =>
    exact (s.setNoticeQueue_sameLeases c _).consistent (fun _ => ⟨rfl, rfl, rfl, rfl⟩) h
  | claimed c r m hold attached checks _ =>
    obtain ⟨-, -, hw, -⟩ := State.claimChecks_open checks
    exact h.follow (s.grant_frame r c m hold).sessions records
      (h.engaged.grant m hold (.inr hw) attached)
  | claimQueued c r m hold wait i attached checks _ _ free =>
    obtain ⟨-, -, hw, -⟩ := State.claimChecks_open checks
    have hh : s.holds r c = false := by
      have := firstFailing_eq_none.mp checks (!s.holds r c, .alreadyHeld)
        (by simp [State.claimChecks])
      simpa using this
    exact h.follow ((s.allocate_frame i _ _ wait).trans (State.grantRule_frame _ r)).sessions records
      ((h.engaged.claimQueued hold wait hh hw free attached).grantRule r)
  | upgraded c r hold attached checks _ =>
    obtain ⟨hh, -⟩ := State.upgradeChecks_plain checks
    exact h.follow (s.grant_frame r c .exclusive hold).sessions records
      (h.engaged.grant .exclusive hold (.inl hh) attached)
  | upgradeQueued c r hold wait i attached checks _ _ free =>
    exact h.follow ((s.allocate_frame i _ _ wait).trans (State.grantRule_frame _ r)).sessions records
      ((h.engaged.upgradeQueued hold wait checks free attached).grantRule r)
  | renewed c r hold _ _ _ =>
    exact (s.arm_sameLeases _ _).consistent (s.arm_frame _ _).sessions h
  | released c r _ holds =>
    exact h.follow ((s.removeUpgrade_frame r c).trans (State.endLease_frame _ r c false)).sessions
      records (h.engaged.leave holds)
  | downgraded c r _ checks =>
    have steady : (s.record r).state ≠ .revoking := by
      have := firstFailing_eq_none.mp checks ((s.record r).state != .revoking, .revoking)
        (by simp [State.downgradeChecks])
      simpa using this
    have lowered := h.engaged.setFields (r := r)
      (x := { s.record r with heldMode := some .shared }) (fun _ => rfl) steady
    exact h.follow (((s.setRecord_frame r _).trans (State.report_frame _ r c)).trans
      (State.grantRule_frame _ r)).sessions records
      (((State.report_sameLeases _ r c).engaged lowered).grantRule r)
  | withdrawn c r i _ _ =>
    exact h.follow ((s.removeEntry_frame i).trans (State.grantRule_frame _ r)).sessions records
      ((h.engaged.removeEntry i).grantRule r)
  | defined r a offline =>
    have hc : s.record r = Record.cleared := (h.records r).eq_cleared offline
    exact h.follow (s.setRecord_frame r _).sessions records (h.engaged.setVacant
      (by rw [hc]; exact Record.cleared_holders) Record.cleared_holders nofun)
  | amended r a _ _ _ =>
    exact h.follow (s.setRecord_frame r _).sessions records (h.engaged.setRecord
      (fun _ _ _ _ => rfl) (fun hs i e he hr hk => h.engaged.steady he hk (hr ▸ hs))
      fun c hc => h.engaged.holders hc)
  | revoked r _ _ =>
    exact h.follow (s.revokeWithGrace_frame r).sessions records (h.engaged.revokeWithGrace r)
  | revokedAtOnce r held _ =>
    exact h.follow (s.revokeAtOnce_frame r).sessions records
      (h.engaged.revokeAtOnce ((h.records r).1.mpr (.inl held)))
  | retired r idle _ =>
    have hh : (s.record r).holders = [] :=
      (h.records r).holders_nil (by simp [idle]) (by simp [idle])
    exact h.follow ((s.cancelQueue_frame r).trans (State.setRecord_frame _ r _)).sessions records
      ((h.engaged.cancelQueue r).setVacant (by rw [State.record_cancelQueue]; exact hh)
        Record.cleared_holders nofun)
  | retiring r _ _ _ =>
    have marked := h.engaged.setRecord (r := r) (x := { s.record r with retirePending := true })
      (fun _ _ _ _ => rfl) (fun hs i e he hr hk => h.engaged.steady he hk (hr ▸ hs))
      fun c hc => h.engaged.holders hc
    exact h.follow ((s.setRecord_frame r _).trans (State.cancelQueue_frame _ r)).sessions records
      (marked.cancelQueue r)

end

/-- Settles O55: every event keeps the records, the entries, the leases and the sessions together. -/
theorem waitersStayConsistent : Obligations.WaitersStayConsistent := by
  intro s t hrecords hwaiters hstep
  have h : s.Consistent := State.consistent_iff.mpr ⟨hrecords, hwaiters⟩
  exact (State.consistent_iff.mp (step_keeps Event.keeps_consistent hstep h)).2

end Sys2Proof.Machine
end

section
/-! PROOF. The requests on the wait pool: UPGRADE (R52 to R55) and WITHDRAW (R58, R59). -/

namespace Sys2Proof.Machine

section
variable {s : State} {p : Client} {r : Res}

/-! UPGRADE -/

theorem upgradeRule_eq (ha : s.attached p = true) (h1 h0 w1 w0 : Byte) :
    upgradeRule p [numberByte r, h1, h0, w1, w0] s
      = s.checked (s.upgradeChecks p r)
          (if (s.record r).holders == [p] then s.grantNow r p .exclusive (half h1 h0)
           else
            s.waitFor { resource := r, client := p, kind := .upgrade, hold := half h1 h0 }
              (half w1 w0) (fun i => i :: s.queue r) 1) :=
  State.withResource_of_attached ha r _

/-- An UPGRADE that reaches its owner: its checks, on a state that differs from `s` in its deadlines
alone, and what follows them. -/
theorem execUpgrade_decided {tag : Byte} (hreach : s.reaches p tag) (ha : s.attached p = true)
    (h1 h0 w1 w0 : Byte) {d : Decision}
    (hd : (s.keepSession p).checked (s.upgradeChecks p r)
        (if (s.record r).holders == [p] then
          (s.keepSession p).grantNow r p .exclusive (half h1 h0)
         else
          (s.keepSession p).waitFor
            { resource := r, client := p, kind := .upgrade, hold := half h1 h0 }
            (half w1 w0) (fun i => i :: s.queue r) 1) = d) :
    exec (.upgrade p tag [numberByte r, h1, h0, w1, w0]
        (goodCrc 0x14 tag [numberByte r, h1, h0, w1, w0])) s
      = .next (d.state.afterReply p 0x14 tag [numberByte r, h1, h0, w1, w0] d.status
          d.payload) := by
  have hP : ∀ params, PortFree (upgradeRequest.rule p params) := portFree_upgrade p
  refine congrArg Host.Outcome.next (State.clientRequest_decided hreach (by decide) rfl rfl (hP _)
    ((upgradeRule_eq ((s.attached_keepSession p p).trans ha) h1 h0 w1 w0).trans ?_))
  rw [← hd]
  obtain ⟨l, hl⟩ := s.keepSession_eq p
  rw [hl]
  rfl

/-- The checks of TABLE 3-3 as the statements write them. -/
theorem State.upgradeChecks_eq (s : State) (c : Client) (r : Res) :
    s.upgradeChecks c r
      = [ (s.holds r c, .notHeld),
          ((s.record r).heldMode != some .exclusive, .alreadyHeld),
          ((s.record r).attrs.modes != .sharedOnly, .modeRefused),
          (!(s.record r).retirePending, .retiring),
          ((s.record r).state != .revoking, .revoking),
          (!(s.queue r).any fun i => s.isUpgrade i && s.entryOf c i, .alreadyWaiting),
          (!(s.queue r).any fun i => s.isUpgrade i && !s.entryOf c i, .upgradeConflict),
          (s.nextToken != 0, .exhausted) ] := by
  unfold State.upgradeChecks State.upgradeWaits
  simp only [beq_true, beq_false]
  rfl

/-- An UPGRADE passes its checks for a SHARED holder in whose queue no UPGRADE entry stands. -/
theorem State.upgradeChecks_pass (holds : s.holds r p = true)
    (shared : (s.record r).heldMode ≠ some .exclusive)
    (modes : (s.record r).attrs.modes ≠ .sharedOnly)
    (staying : (s.record r).retirePending = false) (steady : (s.record r).state ≠ .revoking)
    (plain : ∀ i ∈ s.queue r, s.isUpgrade i = false) (token : s.nextToken ≠ 0) :
    firstFailing (s.upgradeChecks p r) = none := by
  have noUpgrade : ∀ f : PoolIx → Bool, ((s.queue r).any fun i => s.isUpgrade i && f i) = false :=
    fun f => List.any_eq_false.mpr fun i hi => by rw [plain i hi]; nofun
  rw [State.upgradeChecks_eq, firstFailing_eq_none]
  simp only [List.forall_mem_cons, List.not_mem_nil, false_imp_iff, implies_true, and_true]
  exact ⟨holds, bne_iff_ne.mpr shared, bne_iff_ne.mpr modes, by rw [staying]; rfl,
    bne_iff_ne.mpr steady, by rw [noUpgrade]; rfl, by rw [noUpgrade]; rfl, bne_iff_ne.mpr token⟩

/-- Settles O24: the request's checks are those of the statement. -/
theorem upgradeRefusedInOrder : Obligations.UpgradeRefusedInOrder := by
  intro s p tag r h1 h0 w1 w0 st hreach ha hf
  have hfail : firstFailing (s.upgradeChecks p r) = some st := by
    rw [State.upgradeChecks_eq]
    exact hf
  exact execUpgrade_decided hreach ha h1 h0 w1 w0 (State.checked_of_fail hfail)

/-- Settles O22: the conversion is a grant into the slot that the client has. -/
theorem upgradeOfTheSoleHolder : Obligations.UpgradeOfTheSoleHolder := by
  intro s p tag r h1 h0 w1 w0 hreach ha holds shared modes staying steady plain token sole
  have hpass := State.upgradeChecks_pass holds shared modes staying steady plain token
  refine (execUpgrade_decided hreach ha h1 h0 w1 w0
    ((State.checked_of_pass hpass).trans (if_pos (beq_of_eq sole)))).trans ?_
  obtain ⟨l, hl⟩ := s.keepSession_eq p
  unfold State.grantNow
  rw [State.grant_eq, hl]
  rfl

/-- An UPGRADE entry at the head of a record with other holders leaves the grant rule nothing to
grant (R25). -/
theorem State.settled_allocate_upgrade {i : PoolIx} {e : WaitEntry} {q : List PoolIx} (wait : Ticks)
    (hk : e.kind = .upgrade) (beside : (s.record e.resource).holders ≠ [e.client]) :
    (s.allocate i e (i :: q) wait).settled e.resource = true := by
  refine State.settled_iff.mpr (.inr (.inr fun j hj f hf => ?_))
  rw [State.queue_allocate, if_pos rfl] at hj
  obtain rfl : i = j := Option.some.inj hj
  rw [State.entry_allocate, if_pos rfl] at hf
  obtain rfl : e = f := Option.some.inj hf
  rw [State.record_allocate]
  exact Record.compatible_false_of_upgrade hk beside

/-- Settles O23: BUSY and POOL FULL are read off the request; a queued upgrade is at the head and
incompatible, so the grant rule that follows grants nothing. -/
theorem upgradeWaitsOrIsRefused : Obligations.UpgradeWaitsOrIsRefused := by
  intro s p tag r h1 h0 w1 w0 hreach ha holds shared modes staying steady plain token beside
  have hpass := State.upgradeChecks_pass holds shared modes staying steady plain token
  have waiting : ∀ d, (s.keepSession p).waitFor
      { resource := r, client := p, kind := .upgrade, hold := half h1 h0 } (half w1 w0)
      (fun i => i :: s.queue r) 1 = d → _ := fun d hd =>
    execUpgrade_decided (r := r) hreach ha h1 h0 w1 w0
      (((State.checked_of_pass hpass).trans (if_neg fun e => beside (eq_of_beq e))).trans hd)
  have hentry : ∀ i, (s.keepSession p).entry i = s.entry i := (s.keepSession_sameLeases p).entry
  obtain ⟨l, hl⟩ := s.keepSession_eq p
  refine ⟨fun hw => waiting _ (if_pos hw), fun hw full => ?_, fun hw i free lowest => ?_⟩
  · have hnone : (s.keepSession p).freeIndex = none :=
      State.freeIndex_eq_none fun i => by rw [hentry]; exact full i
    refine (waiting _ ((if_neg hw).trans (by rw [hnone]))).trans ?_
    rw [hl]
    rfl
  · have hsome : (s.keepSession p).freeIndex = some i :=
      State.freeIndex_eq_some (by rw [hentry]; exact free) fun j hj => by
        rw [hentry]
        exact lowest j hj
    refine (waiting _ ((if_neg hw).trans (by rw [hsome]))).trans ?_
    have hsettled := State.settled_allocate_upgrade (s := s.keepSession p) (i := i)
      (e := { resource := r, client := p, kind := .upgrade, hold := half h1 h0 })
      (q := s.queue r) (half w1 w0) rfl (by rw [State.record_keepSession]; exact beside)
    dsimp only at hsettled ⊢
    rw [State.grantRule_of_settled hsettled, State.allocate_eq _ List.mem_cons_self, hl]
    rfl

/-! The one entry of a pair -/

/-- A search of the queue finds the only entry that the client has there (R49). -/
theorem State.OneWaitEach.waitOf_eq (h : s.OneWaitEach) (hp : s.PoolWf) {i : PoolIx}
    (hi : i ∈ s.queue r) (ho : s.entryOf p i = true) : s.waitOf r p = some i := by
  obtain ⟨j, hj⟩ := Option.isSome_iff_exists.mp (State.waits_iff.mpr ⟨i, hi, ho⟩)
  have hmem : j ∈ s.queue r := List.mem_of_find?_eq_some hj
  have hown : s.entryOf p j = true := List.find?_some hj
  rw [hj, h p j i hown ho (((hp.2 r j).mp hmem).trans ((hp.2 r i).mp hi).symm)]

/-- Without that entry the client waits no more (R49). -/
theorem State.OneWaitEach.not_waits_withoutEntry (h : s.OneWaitEach) (hp : s.PoolWf) {i : PoolIx}
    (hi : i ∈ s.queue r) (ho : s.entryOf p i = true) : (s.withoutEntry r i).waits r p = false := by
  refine State.not_waits_iff.mpr fun j hj => ?_
  rw [State.queue_withoutEntry] at hj
  obtain ⟨hmem, hne⟩ := List.mem_filter.mp hj
  rw [State.entryOf_withoutEntry]
  cases hown : s.entryOf p j with
  | false => exact Bool.and_false _
  | true =>
    have hji := h p j i hown ho (((hp.2 r j).mp hmem).trans ((hp.2 r i).mp hi).symm)
    exact absurd hji (bne_iff_ne.mp hne)

theorem SameLeases.oneWaitEach {t : State} (e : SameLeases s t) (h : s.OneWaitEach) :
    t.OneWaitEach := fun c i j => by
  rw [e.entryOf, e.entryOf, e.waitsOn, e.waitsOn]
  exact h c i j

/-- The client's entry taken out of its queue; its lease and its notices decide what is reported
(R50). -/
theorem State.OneWaitEach.removeEntry_eq (h : s.OneWaitEach) (hp : s.PoolWf) {i : PoolIx}
    (hi : i ∈ s.queue r) (ho : s.entryOf p i = true) :
    s.removeEntry i
      = { s.withoutEntry r i with
          sessions := Vec.set s.sessions p
            ((s.session p).setInvolves r (s.holds r p || s.unread r p)) } := by
  obtain ⟨e, he, rfl⟩ := hp.entry_of_mem hi
  obtain ⟨f, hf, rfl⟩ := State.entryOf_iff.mp ho
  obtain rfl : e = f := Option.some.inj (he.symm.trans hf)
  have hconcerns : (s.withoutEntry e.resource i).concerns e.resource e.client
      = (s.holds e.resource e.client || s.unread e.resource e.client) := by
    unfold State.concerns
    rw [h.not_waits_withoutEntry hp hi ho, Bool.or_false]
    rfl
  rw [State.removeEntry_eq he (hp.1 e.resource), State.report_eq hconcerns]
  rfl

/-! WITHDRAW -/

theorem withdrawRule_of_entry (ha : s.attached p = true) {i : PoolIx}
    (h : s.waitOf r p = some i) :
    withdrawRequest.rule p [numberByte r] s = ((s.removeEntry i).grantRule r).answer .ok := by
  refine (State.withResource_of_attached ha r _).trans ?_
  rw [h]

theorem withdrawRule_of_not_waits (ha : s.attached p = true) (h : s.waits r p = false) :
    withdrawRequest.rule p [numberByte r] s = s.answer .notWaiting := by
  have hnone : s.waitOf r p = none := by
    rw [← Option.isNone_iff_eq_none, ← Option.not_isSome, Bool.not_eq_true']
    exact h
  refine (State.withResource_of_attached ha r _).trans ?_
  rw [hnone]

/-- Settles O25: the search finds the client's one entry, on the state after the keepalive. -/
theorem withdrawRemovesTheEntry : Obligations.WithdrawRemovesTheEntry := by
  intro s p tag r i hpool hone hreach ha
  have hP : ∀ params, PortFree (withdrawRequest.rule p params) := portFree_withdraw p
  have hkept := s.keepSession_sameLeases p
  have ha' : (s.keepSession p).attached p = true := (s.attached_keepSession p p).trans ha
  refine ⟨fun hw => ?_, fun hi ho => ?_⟩
  · exact congrArg Host.Outcome.next (State.clientRequest_decided hreach (by decide) rfl rfl (hP _)
      (withdrawRule_of_not_waits ha' ((hkept.waits r p).trans hw)))
  · have hone' := hkept.oneWaitEach hone
    have hpool' := hkept.poolWf hpool
    have hi' : i ∈ (s.keepSession p).queue r := by rw [hkept.queue]; exact hi
    have ho' : (s.keepSession p).entryOf p i = true := (hkept.entryOf p i).trans ho
    refine congrArg Host.Outcome.next ((State.clientRequest_decided hreach (by decide) rfl rfl (hP _)
      (withdrawRule_of_entry ha' (hone'.waitOf_eq hpool' hi' ho'))).trans ?_)
    rw [hone'.removeEntry_eq hpool' hi' ho', State.holds_keepSession, State.unread_keepSession]
    obtain ⟨l, hl⟩ := s.keepSession_eq p
    rw [hl]
    rfl

end

end Sys2Proof.Machine
end

section
/-! PROOF. WAIT expiry (R62, R63, R74, R78): the client's notice, the entry, then the grant rule. -/

namespace Sys2Proof.Machine

section
variable {s : State} {i : PoolIx} {e : WaitEntry}

/-- The state in which the client of an expired wait has been told: its WAIT deadline is off the list
(R62). -/
def State.timingOut (s : State) (i : PoolIx) (e : WaitEntry) : State :=
  (s.disarm (.wait i)).notify e.client e.resource .claimTimedOut

theorem State.timingOut_sameLeases (s : State) (i : PoolIx) (e : WaitEntry) :
    SameLeases s (s.timingOut i e) :=
  (s.disarm_sameLeases _).trans (State.notify_sameLeases _ _ _ _)

theorem State.timingOut_frame (s : State) (i : PoolIx) (e : WaitEntry) :
    LeaseFrame s (s.timingOut i e) :=
  (s.disarm_frame _).trans (State.notify_frame _ _ _ _)

theorem State.timingOut_elsewhere (he : s.entry i = some e) :
    s.sameElsewhere (s.timingOut i e) e.resource :=
  State.sameElsewhere_trans
    (s.disarm_elsewhere fun d => s.awayFrom_wait (State.waitsOn_of_entry he) d)
    (State.notify_elsewhere _ _ _ _)

/-- WAIT expiry of an armed deadline. -/
theorem execWaitDeadlineExpiry_armed (harmed : s.armed (.wait i) = true) (he : s.entry i = some e) :
    exec (.waitDeadlineExpiry i) s
      = .next (((s.timingOut i e).removeEntry i).grantRule e.resource) := by
  have he' : (s.disarm (.wait i)).entry i = some e := he
  refine congrArg Host.Outcome.next ((State.expire_of_armed harmed).trans ?_)
  show (s.disarm (.wait i)).waitExpired i = _
  unfold State.waitExpired
  rw [he']
  rfl

/-- The removed entry in the statement's terms: the notice keeps the pair reported (R118). -/
theorem State.removeEntry_timingOut (hp : s.PoolWf) (he : s.entry i = some e) :
    (s.timingOut i e).removeEntry i
      = ({ s with
            sessions := Vec.set s.sessions e.client
              ((s.session e.client).setInvolves e.resource true)
            notices := Vec.set s.notices e.client
              { s.noticeQueue e.client with
                queue := enqueueNotice e.resource .claimTimedOut
                  (s.noticeQueue e.client).queue } } : State).withoutEntry e.resource i := by
  have hsame := s.timingOut_sameLeases i e
  have hunread : ((s.timingOut i e).withoutEntry e.resource i).unread e.resource e.client = true :=
    State.unread_notify_self (s.disarm (.wait i)) e.client e.resource .claimTimedOut
  have hdeadlines : withoutDeadline (.wait i) (s.timingOut i e).deadlines
      = withoutDeadline (.wait i) s.deadlines := withoutDeadline_withoutDeadline _ _
  rw [State.removeEntry_eq ((hsame.entry i).trans he) ((hsame.poolWf hp).1 e.resource),
    State.report_eq (State.concerns_of_unread hunread)]
  unfold State.withoutEntry
  rw [hdeadlines]
  rfl

theorem State.noticeQueue_removeEntry (s : State) (i : PoolIx) (c : Client) :
    (s.removeEntry i).noticeQueue c = s.noticeQueue c := by
  unfold State.removeEntry
  split <;> rfl

theorem State.holds_removeEntry (s : State) (i : PoolIx) (r : Res) (c : Client) :
    (s.removeEntry i).holds r c = s.holds r c := by
  unfold State.holds
  rw [State.record_removeEntry]

/-- The grant rule makes no entry. -/
theorem State.entry_grantRule_of_none {r : Res} (h : s.entry i = none) :
    (s.grantRule r).entry i = none := by
  unfold State.grantRule
  split
  · refine State.grantHeads_keeps (P := fun u : State => u.entry i = none)
      (fun u j f _ _ _ hu => ?_) _ h
    rw [State.grantEntry_entry, State.entry_removeEntry, hu, ite_self]
  · exact h

theorem State.not_armed_removeEntry (he : s.entry i = some e) :
    (s.removeEntry i).armed (.wait i) = false := by
  rw [State.removeEntry_of_entry he]
  exact s.armed_disarm_self (.wait i)

end

/-- Settles O48: the entry of a client that has been told goes, and the grant rule gives that client
nothing more. -/
theorem waitExpiryRemovesTheEntry : Obligations.WaitExpiryRemovesTheEntry := by
  intro s i
  refine ⟨fun h => congrArg Host.Outcome.next (State.expire_of_not_armed h),
    fun hrecords hwaiters harmed e he => ?_⟩
  have h := (State.consistent_iff.mpr ⟨hrecords, hwaiters⟩).engaged
  have hsame := s.timingOut_sameLeases i e
  have hu := hsame.engaged h
  have heu : (s.timingOut i e).entry i = some e := (hsame.entry i).trans he
  have hv := hu.removeEntry i
  have hwaits := hu.not_waits_removeEntry heu
  have gains := State.grantRule_gainsNothing hv.pool hwaits
  have frame := ((s.timingOut_frame i e).trans (State.removeEntry_frame _ i)).trans
    (State.grantRule_frame _ e.resource)
  refine ⟨_, execWaitDeadlineExpiry_armed harmed he, ?_, ?_, ?_, gains.not_waits hwaits, ?_,
    fun c hc => ?_, ?_, frame.outside, frame.cpis, frame.stored, frame.framing⟩
  · rw [State.removeEntry_timingOut h.pool he]
  · exact State.entry_grantRule_of_none (by rw [State.entry_removeEntry, if_pos rfl])
  · exact State.not_armed_grantRule (fun _ => nofun) (State.not_armed_removeEntry heu)
  · rw [gains.notices, State.noticeQueue_removeEntry]
    exact congrArg NoticeQueue.queue (State.noticeQueue_notify_self _ _ _ _)
  · refine State.holds_grantRule ?_
    rw [State.holds_removeEntry, hsame.holds]
    exact hc
  · have own : ∀ f ∈ (s.timingOut i e).entry i, f.resource = e.resource := fun f hf => by
      rw [Option.mem_def, heu] at hf
      rw [Option.some.inj hf]
    exact State.sameElsewhere_trans (State.sameElsewhere_trans (State.timingOut_elsewhere he)
      (State.removeEntry_elsewhere _ own))
      (State.grantRule_elsewhere _ (hv.pool.resource_of_mem e.resource))

end Sys2Proof.Machine
end


section
/-! PROOF. INSPECT QUEUE, INSPECT CLIENT, LIST DEADLINES and READ GATES (R66, R82, R120, R143): each
answers what its rule reads, in the layout of TABLE 11-5, and stores nothing but the response. -/

namespace Sys2Proof.Machine

/-! A request that only reads -/

/-- A request whose rule answers without a change of state, whatever the supervisor port is at, leaves
nothing but its response. The rule may read the client ports, so it need not be port-free. -/
theorem State.supervisorRequest_replied {s : State} {q : SupervisorRequest} {params : List Byte}
    {st : Status} {payload : List Byte} (tag : Byte) (hq : q.length ≤ 16)
    (hl : params.length = q.length)
    (hrule : ∀ g y, q.rule params (s.withPorts s.cpis g y)
      = (s.withPorts s.cpis g y).reply st payload) :
    s.supervisorRequest q tag params (goodCrc q.code tag params) = s.afterStored tag st payload := by
  have short : ¬ maxParams < params.length := by unfold maxParams; omega
  have intact : Frame.intact { code := q.code, tag, params, crc := goodCrc q.code tag params }
      = true := by simp [Frame.intact, Frame.covered, goodCrc]
  obtain ⟨y, hy⟩ := s.beginWrite_eq
  unfold State.supervisorRequest State.takeSupervisorFrame
  rw [if_neg short, if_pos intact]
  dsimp only
  rw [if_pos hl, hy, hrule]
  rfl

/-! What the four rules decide -/

theorem State.withNumber_numberByte (s : State) (r : Res) (next : Res → Decision) :
    s.withNumber (numberByte r) next = next r := by
  unfold State.withNumber
  rw [numberBelow_numberByte (by decide)]

theorem State.withNumber_of_le (s : State) {n : Byte} (h : 64 ≤ n.toNat) (next : Res → Decision) :
    s.withNumber n next = s.answer .noResource := by
  unfold State.withNumber
  rw [numberBelow_of_le h]

theorem State.withClient_numberByte (s : State) (c : Client) (next : Client → Decision) :
    s.withClient (numberByte c) next = next c := by
  unfold State.withClient
  rw [numberBelow_numberByte (by decide)]

theorem State.withClient_of_le (s : State) {n : Byte} (h : 4 ≤ n.toNat)
    (next : Client → Decision) : s.withClient n next = s.answer .noClient := by
  unfold State.withClient
  rw [numberBelow_of_le h]

theorem inspectQueueRule_noResource (s : State) {n : Byte} (start : Byte) (h : 64 ≤ n.toNat) :
    inspectQueueRule [n, start] s = s.answer .noResource :=
  s.withNumber_of_le h _

theorem inspectQueueRule_badStart (s : State) (r : Res) {start : Byte} (h : 32 ≤ start.toNat) :
    inspectQueueRule [numberByte r, start] s = s.answer .badParams :=
  (s.withNumber_numberByte r _).trans (if_pos h)

theorem inspectQueueRule_view (s : State) (r : Res) {start : Byte} (h : start.toNat < 32) :
    inspectQueueRule [numberByte r, start] s = s.reply .ok (s.queueView r start.toNat) :=
  (s.withNumber_numberByte r _).trans (if_neg (Nat.not_le_of_lt h))

theorem inspectClientRule_noClient (s : State) {n : Byte} (h : 4 ≤ n.toNat) :
    inspectClientRule [n] s = s.answer .noClient :=
  s.withClient_of_le h _

theorem inspectClientRule_view (s : State) (c : Client) :
    inspectClientRule [numberByte c] s = s.reply .ok (s.clientBytes c) :=
  s.withClient_numberByte c _

theorem listDeadlinesRule_badStart (s : State) {start : Byte} (h : 160 ≤ start.toNat) :
    listDeadlinesRule [start] s = s.answer .badParams :=
  if_pos h

theorem listDeadlinesRule_view (s : State) {start : Byte} (h : start.toNat < 160) :
    listDeadlinesRule [start] s = s.reply .ok (s.deadlinesView start.toNat) :=
  if_neg (Nat.not_le_of_lt h)

/-! The four requests -/

theorem exec_inspectQueue {s : State} {n start : Byte} {st : Status} {payload : List Byte}
    (tag : Byte)
    (h : ∀ g y, inspectQueueRule [n, start] (s.withPorts s.cpis g y)
      = (s.withPorts s.cpis g y).reply st payload) :
    exec (.inspectQueue tag [n, start] (goodCrc 0x44 tag [n, start])) s
      = .next (s.afterStored tag st payload) :=
  congrArg Host.Outcome.next
    (State.supervisorRequest_replied (q := inspectQueueRequest) tag (by decide) rfl h)

theorem exec_inspectClient {s : State} {n : Byte} {st : Status} {payload : List Byte} (tag : Byte)
    (h : ∀ g y, inspectClientRule [n] (s.withPorts s.cpis g y)
      = (s.withPorts s.cpis g y).reply st payload) :
    exec (.inspectClient tag [n] (goodCrc 0x5A tag [n])) s
      = .next (s.afterStored tag st payload) :=
  congrArg Host.Outcome.next
    (State.supervisorRequest_replied (q := inspectClientRequest) tag (by decide) rfl h)

theorem exec_listDeadlines {s : State} {start : Byte} {st : Status} {payload : List Byte}
    (tag : Byte)
    (h : ∀ g y, listDeadlinesRule [start] (s.withPorts s.cpis g y)
      = (s.withPorts s.cpis g y).reply st payload) :
    exec (.listDeadlines tag [start] (goodCrc 0x61 tag [start])) s
      = .next (s.afterStored tag st payload) :=
  congrArg Host.Outcome.next
    (State.supervisorRequest_replied (q := listDeadlinesRequest) tag (by decide) rfl h)

theorem exec_readGates (s : State) (tag : Byte) :
    exec (.readGates tag [] (goodCrc 0x52 tag [])) s
      = .next (s.afterStored tag .ok s.gatesView) :=
  congrArg Host.Outcome.next
    (State.supervisorRequest_replied (q := readGatesRequest) tag (by decide) rfl
      fun _ _ => rfl)

/-! The payloads -/

theorem length_page {α : Type} (l : List α) (start size : Nat) :
    ((l.drop start).take size).length = min size (l.length - start) := by
  rw [List.length_take, List.length_drop]

/-- The client in bits 0 and 1, the kind in bits 4 and 5. -/
theorem numberByte_or_kindCode (c : Client) (k : WaitKind) :
    numberByte c ||| (k.code <<< 4)
      = BitVec.ofNat 8
          (c.val
            + 16 * match k with
              | .shared => 1
              | .exclusive => 2
              | .upgrade => 3) := by
  cases k with
  | shared => revert c; decide
  | exclusive => revert c; decide
  | upgrade => revert c; decide

/-- The bytes of a place that holds an entry. -/
theorem State.entryBytes_eq {s : State} {i : PoolIx} (full : s.entry i ≠ none) :
    s.entryBytes i
      = (s.entry i).toList.flatMap fun e =>
          [ BitVec.ofNat 8 i.val,
            BitVec.ofNat 8
              (e.client.val
                + 16 * match e.kind with
                  | .shared => 1
                  | .exclusive => 2
                  | .upgrade => 3) ]
            ++ bytesOf 2 e.hold ++ bytesOf 2 (s.remaining (.wait i)) := by
  obtain ⟨e, he⟩ := Option.ne_none_iff_exists'.mp full
  unfold State.entryBytes
  rw [he, Option.toList_some, List.flatMap_singleton]
  dsimp only
  rw [numberByte_or_kindCode]
  rfl

/-- The INSPECT QUEUE payload: the length, and a page of at most seven places (R66). -/
theorem State.queueView_eq (s : State) (r : Res) (start : Nat) :
    s.queueView r start
      = [ BitVec.ofNat 8 (s.queue r).length,
          BitVec.ofNat 8 (min 7 ((s.queue r).length - start)) ]
        ++ (((s.queue r).drop start).take 7).flatMap s.entryBytes := by
  unfold State.queueView countByte
  dsimp only
  rw [length_page]

/-- A deadline's kind and its two owner bytes (R175). -/
theorem DeadlineId.kindCode_cons_ownerBytes (id : DeadlineId) :
    id.kindCode :: id.ownerBytes
      = match id with
        | .hold r c => [1, BitVec.ofNat 8 r.val, BitVec.ofNat 8 c.val]
        | .wait i => [2, BitVec.ofNat 8 i.val, 0]
        | .session c => [3, BitVec.ofNat 8 c.val, 0]
        | .grace r => [4, BitVec.ofNat 8 r.val, 0]
        | .guard r => [5, BitVec.ofNat 8 r.val, 0] := by
  cases id <;> rfl

/-- The LIST DEADLINES payload (R82). -/
theorem State.deadlinesView_eq (s : State) (start : Nat) :
    s.deadlinesView start
      = bytesOf 4 s.clock
        ++ [ tickSourceCode s.timebase.source, BitVec.ofNat 8 s.timebase.period.val,
             BitVec.ofNat 8 s.deadlines.length,
             BitVec.ofNat 8 (min 6 (s.deadlines.length - start)) ]
        ++ ((s.deadlines.drop start).take 6).flatMap fun d =>
          (d.id.kindCode :: d.id.ownerBytes) ++ bytesOf 2 ((d.due - s.clock).setWidth 16) := by
  unfold State.deadlinesView countByte
  dsimp only
  rw [length_page]
  rfl

theorem State.gateLevel_of_unbound {s : State} {g : Gate} (h : s.gate g = none) :
    s.gateLevel g = false := by
  unfold State.gateLevel
  rw [h]

/-- The first byte of a bound gate: its fields do not overlap, so the bits add up. -/
theorem gateByte_eq_sum (c : Client) (v : Cover) (p : Polarity) (high : Bool) :
    numberByte c ||| (v.code <<< 4) ||| (p.code <<< 5) ||| (flagByte high <<< 6) ||| 0x80
      = BitVec.ofNat 8
          (c.val + (if v = .anyMode then 16 else 0) + (if p = .lowActive then 32 else 0)
            + (if high then 64 else 0) + 128) := by
  cases v <;> cases p <;> (revert c high; decide)

/-- The two bytes of a gate in READ GATES (R143). -/
theorem State.gateBytes_eq (s : State) (g : Gate) :
    s.gateBytes g
      = match s.gate g with
        | none => [0, 0]
        | some b =>
          [ BitVec.ofNat 8
              (b.client.val + (if b.cover = .anyMode then 16 else 0)
                + (if b.polarity = .lowActive then 32 else 0)
                + (if s.gateLevel g then 64 else 0) + 128),
            BitVec.ofNat 8 b.resource.val ] := by
  unfold State.gateBytes
  cases h : s.gate g with
  | none =>
    rw [State.gateLevel_of_unbound h]
    rfl
  | some b =>
    dsimp only
    rw [gateByte_eq_sum]
    rfl

/-- Settles O34: each request stores what its rule reads, and each payload is spelled field by field
in the numbers of TABLE 11-5. -/
theorem inspectionsChangeNothing : Obligations.InspectionsChangeNothing := by
  intro s tag n start r c
  refine ⟨fun h => exec_inspectQueue tag fun _ _ => inspectQueueRule_noResource _ start h,
    fun h => exec_inspectQueue tag fun _ _ => inspectQueueRule_badStart _ r h,
    fun h full => (exec_inspectQueue (payload := s.queueView r start.toNat) tag
      fun _ _ => inspectQueueRule_view _ r h).trans ?queue,
    fun h => exec_inspectClient tag fun _ _ => inspectClientRule_noClient _ h,
    (exec_inspectClient (payload := s.clientBytes c) tag
      fun _ _ => inspectClientRule_view _ c).trans ?client,
    fun h => exec_listDeadlines tag fun _ _ => listDeadlinesRule_badStart _ h,
    fun h => (exec_listDeadlines (payload := s.deadlinesView start.toNat) tag
      fun _ _ => listDeadlinesRule_view _ h).trans ?deadlines,
    (exec_readGates s tag).trans ?gates⟩
  case queue =>
    exact congrArg (fun l => Host.Outcome.next (s.afterStored tag .ok l))
      ((s.queueView_eq r start.toNat).trans (congrArg _ (List.flatMap_congr fun i hi =>
        State.entryBytes_eq (full i (List.mem_of_mem_drop (List.mem_of_mem_take hi))))))
  case client =>
    rw [BitVec.ofNat_toNat]
    unfold State.clientBytes
    rfl
  case deadlines =>
    rw [State.deadlinesView_eq]
    simp only [DeadlineId.kindCode_cons_ownerBytes]
    rfl
  case gates =>
    exact congrArg (fun l => Host.Outcome.next (s.afterStored tag .ok l))
      (List.flatMap_congr fun g _ => s.gateBytes_eq g)

end Sys2Proof.Machine
end

section
/-! PROOF. The deadline list within one event (R72 to R76): at one clock value it changes by armings
and disarmings alone, which keep its order and make nothing due. -/

namespace Sys2Proof.Machine

/-! The list at a clock value -/

/-- One entry per owner and kind, in ascending order of ticks remaining, none further ahead than the
longest interval. An entry may be due: so the list stands while a tick is being delivered. -/
structure OrderedAt (now : Clock) (l : List Deadline) : Prop where
  ids : (l.map (·.id)).Nodup
  ascending : l.Pairwise fun d e => (d.remaining now).toNat ≤ (e.remaining now).toNat
  bounded : ∀ d ∈ l, (d.remaining now).toNat ≤ 65535

/-- The entry is due at the clock value (R77). -/
def Deadline.dueAt (now : Clock) (d : Deadline) : Bool := d.due == now

theorem Deadline.dueAt_iff {now : Clock} {d : Deadline} : d.dueAt now = true ↔ d.due = now :=
  beq_iff_eq

/-- An entry is due when no ticks remain (R15). -/
theorem Deadline.remaining_eq_zero_iff {now : Clock} {d : Deadline} :
    (d.remaining now).toNat = 0 ↔ d.due = now := by
  unfold Deadline.remaining
  rw [← BitVec.toNat_zero (w := 32), BitVec.toNat_inj]
  exact sub_eq_zero

theorem State.deadlinesWf_iff {s : State} :
    s.DeadlinesWf ↔ OrderedAt s.clock s.deadlines ∧ ∀ d ∈ s.deadlines, d.due ≠ s.clock := by
  have ahead : ∀ d : Deadline, 1 ≤ (d.remaining s.clock).toNat ↔ d.due ≠ s.clock := fun d =>
    Nat.one_le_iff_ne_zero.trans (not_congr Deadline.remaining_eq_zero_iff)
  constructor
  · rintro ⟨ids, ascending, bounds⟩
    exact ⟨⟨ids, ascending, fun d hd => (bounds d hd).2⟩, fun d hd => (ahead d).mp (bounds d hd).1⟩
  · rintro ⟨⟨ids, ascending, bounded⟩, later⟩
    exact ⟨ids, ascending, fun d hd => ⟨(ahead d).mpr (later d hd), bounded d hd⟩⟩

theorem OrderedAt.nil (now : Clock) : OrderedAt now [] :=
  ⟨List.nodup_nil, List.Pairwise.nil, nofun⟩

theorem OrderedAt.sublist {now : Clock} {l m : List Deadline} (h : OrderedAt now l)
    (sub : m.Sublist l) : OrderedAt now m :=
  ⟨h.ids.sublist (sub.map _), h.ascending.sublist sub, fun d hd => h.bounded d (sub.subset hd)⟩

/-- Behind a head that is not due nothing is due. -/
theorem OrderedAt.later {now : Clock} {l : List Deadline} (h : OrderedAt now l)
    (head : ∀ d ∈ l.head?, d.due ≠ now) : ∀ d ∈ l, d.due ≠ now := by
  cases l with
  | nil => nofun
  | cons e rest =>
    obtain ⟨first, -⟩ := List.pairwise_cons.mp h.ascending
    have he : (e.remaining now).toNat ≠ 0 :=
      mt Deadline.remaining_eq_zero_iff.mp (head e rfl)
    intro d hd
    rcases List.mem_cons.mp hd with rfl | hd
    · exact head d rfl
    · refine mt Deadline.remaining_eq_zero_iff.mpr ?_
      have := first d hd
      omega

/-- A tick brings every entry that is not due one tick nearer (R71). -/
theorem Deadline.remaining_succ {now : Clock} {d : Deadline} (h : d.due ≠ now) :
    (d.remaining (now + 1)).toNat = (d.remaining now).toNat - 1 := by
  unfold Deadline.remaining
  bv_omega

theorem OrderedAt.succ {now : Clock} {l : List Deadline} (h : OrderedAt now l)
    (later : ∀ d ∈ l, d.due ≠ now) : OrderedAt (now + 1) l := by
  refine ⟨h.ids, h.ascending.imp_of_mem fun {d e} hd he hle => ?_, fun d hd => ?_⟩
  · rw [Deadline.remaining_succ (later d hd), Deadline.remaining_succ (later e he)]
    omega
  · rw [Deadline.remaining_succ (later d hd)]
    have := h.bounded d hd
    omega

/-! One arming -/

/-- An interval that is not 0 ends 1 to 65535 ticks ahead (R73). -/
theorem toNat_remaining_armed (now : Clock) (id : DeadlineId) (n : Ticks) :
    (Deadline.remaining { id, due := now + n.setWidth 32 } now).toNat = n.toNat := by
  unfold Deadline.remaining
  bv_omega

theorem withoutDeadline_sublist (id : DeadlineId) (l : List Deadline) :
    (withoutDeadline id l).Sublist l := List.filter_sublist

theorem withoutDeadline_eq_armedList (now : Clock) (id : DeadlineId) (l : List Deadline) :
    withoutDeadline id l = armedList now id 0 l := (if_pos rfl).symm

/-- An arming keeps the order: a re-armed entry leaves its old place first (R73, R75). -/
theorem OrderedAt.arm {now : Clock} {l : List Deadline} (h : OrderedAt now l) (id : DeadlineId)
    (n : Ticks) : OrderedAt now (armedList now id n l) := by
  have left := h.sublist (withoutDeadline_sublist id l)
  unfold armedList
  split
  · exact left
  · refine ⟨?_, insertDeadline_pairwise left.ascending, fun d hd => ?_⟩
    · rw [((insertDeadline_perm _ _ _).map _).nodup_iff, List.map_cons, List.nodup_cons]
      refine ⟨fun hid => ?_, left.ids⟩
      obtain ⟨d, hd, e⟩ := List.mem_map.mp hid
      exact (mem_withoutDeadline.mp hd).2 e
    · rcases mem_insertDeadline.mp hd with rfl | hd
      · rw [toNat_remaining_armed]
        omega
      · exact left.bounded d hd

/-- An arming makes nothing due (R73). -/
theorem filter_dueAt_armedList (now : Clock) (id : DeadlineId) (n : Ticks) (l : List Deadline) :
    ((armedList now id n l).filter (Deadline.dueAt now)).Sublist
      (l.filter (Deadline.dueAt now)) := by
  have left := (withoutDeadline_sublist id l).filter (Deadline.dueAt now)
  unfold armedList
  split
  · exact left
  · rename_i hn
    rw [filter_insertDeadline]
    · exact left
    · refine Bool.eq_false_of_not_eq_true fun hdue => hn ?_
      have hzero := Deadline.remaining_eq_zero_iff.mpr (Deadline.dueAt_iff.mp hdue)
      rw [toNat_remaining_armed] at hzero
      exact BitVec.eq_of_toNat_eq hzero

/-! The list within an event -/

/-- The lease clock stands and the list has changed by armings and disarmings alone; an interval of 0
disarms (R73, R74). -/
structure Rearms (s t : State) : Prop where
  clock : t.clock = s.clock
  list : Relation.ReflTransGen (fun l m => ∃ id n, m = armedList s.clock id n l) s.deadlines
    t.deadlines

theorem Rearms.ordered {s t : State} (h : Rearms s t) (ho : OrderedAt s.clock s.deadlines) :
    OrderedAt t.clock t.deadlines := by
  obtain ⟨hc, run⟩ := h
  rw [hc]
  generalize t.deadlines = l at run
  induction run with
  | refl => exact ho
  | tail _ step ih =>
    obtain ⟨id, n, rfl⟩ := step
    exact ih.arm id n

/-- The event makes nothing due. -/
theorem Rearms.due {s t : State} (h : Rearms s t) :
    (t.deadlines.filter (Deadline.dueAt t.clock)).Sublist
      (s.deadlines.filter (Deadline.dueAt s.clock)) := by
  obtain ⟨hc, run⟩ := h
  rw [hc]
  generalize t.deadlines = l at run
  induction run with
  | refl => exact List.Sublist.refl _
  | tail _ step ih =>
    obtain ⟨id, n, rfl⟩ := step
    exact (filter_dueAt_armedList _ id n _).trans ih

theorem Rearms.later {s t : State} (h : Rearms s t) (later : ∀ d ∈ s.deadlines, d.due ≠ s.clock) :
    ∀ d ∈ t.deadlines, d.due ≠ t.clock := by
  intro d hd hdue
  have hmem := h.due.subset (List.mem_filter.mpr ⟨hd, Deadline.dueAt_iff.mpr hdue⟩)
  obtain ⟨hold, hdue⟩ := List.mem_filter.mp hmem
  exact later d hold (Deadline.dueAt_iff.mp hdue)

theorem Rearms.deadlinesWf {s t : State} (h : Rearms s t) (hs : s.DeadlinesWf) :
    t.DeadlinesWf := by
  obtain ⟨ordered, later⟩ := State.deadlinesWf_iff.mp hs
  exact State.deadlinesWf_iff.mpr ⟨h.ordered ordered, h.later later⟩

theorem Rearms.same {s t : State} (hc : t.clock = s.clock) (hd : t.deadlines = s.deadlines) :
    Rearms s t := ⟨hc, hd ▸ .refl⟩

theorem Rearms.refl (s : State) : Rearms s s := .same rfl rfl

theorem Rearms.trans {s t u : State} (h : Rearms s t) (k : Rearms t u) : Rearms s u := by
  refine ⟨k.clock.trans h.clock, h.list.trans ?_⟩
  have run := k.list
  rwa [h.clock] at run

theorem Rearms.foldl {α : Type} {f : State → α → State} (h : ∀ t a, Rearms t (f t a))
    (l : List α) (s : State) : Rearms s (l.foldl f s) :=
  List.foldlRecOn (motive := fun t : State => Rearms s t) _ _ (.refl s)
    fun t ht a _ => ht.trans (h t a)

section
variable (s : State)

theorem State.setRecord_rearms (r : Res) (x : Record) : Rearms s (s.setRecord r x) :=
  .same rfl rfl

theorem State.setSession_rearms (c : Client) (x : Session) : Rearms s (s.setSession c x) :=
  .same rfl rfl

theorem State.setNoticeQueue_rearms (c : Client) (q : NoticeQueue) :
    Rearms s (s.setNoticeQueue c q) := .same rfl rfl

theorem State.report_rearms (r : Res) (c : Client) : Rearms s (s.report r c) :=
  s.setSession_rearms c _

theorem State.notify_rearms (c : Client) (r : Res) (w : ResourceWord) :
    Rearms s (s.notify c r w) := s.setNoticeQueue_rearms c _

theorem State.raise_rearms (e : EventSource) : Rearms s (s.raise e) := .same rfl rfl

theorem State.arm_rearms (id : DeadlineId) (n : Ticks) : Rearms s (s.arm id n) := by
  rw [State.arm_eq]
  exact ⟨rfl, .single ⟨id, n, rfl⟩⟩

theorem State.disarm_rearms (id : DeadlineId) : Rearms s (s.disarm id) :=
  ⟨rfl, .single ⟨id, 0, withoutDeadline_eq_armedList _ id _⟩⟩

/-! Entries and grants -/

theorem State.removeEntry_rearms (i : PoolIx) : Rearms s (s.removeEntry i) := by
  cases h : s.entry i with
  | none => unfold State.removeEntry; rw [h]; exact .refl s
  | some e =>
    rw [State.removeEntry_of_entry h]
    refine .trans ?_ (State.report_rearms _ _ _)
    exact ⟨rfl, (s.disarm_rearms (.wait i)).list⟩

theorem State.removeUpgrade_rearms (r : Res) (c : Client) : Rearms s (s.removeUpgrade r c) := by
  unfold State.removeUpgrade
  split
  · exact s.removeEntry_rearms _
  · exact .refl s

theorem State.cancelEntry_rearms (i : PoolIx) : Rearms s (s.cancelEntry i) := by
  unfold State.cancelEntry
  split
  · exact (s.notify_rearms _ _ _).trans (State.removeEntry_rearms _ i)
  · exact .refl s

theorem State.cancelQueue_rearms (r : Res) : Rearms s (s.cancelQueue r) :=
  .foldl State.cancelEntry_rearms _ s

theorem State.cancelUpgrade_rearms (r : Res) : Rearms s (s.cancelUpgrade r) := by
  unfold State.cancelUpgrade
  split
  · exact s.cancelEntry_rearms _
  · exact .refl s

/-- A new entry arms its WAIT deadline, unless it waits without limit (R31, R55). -/
theorem State.allocate_rearms (i : PoolIx) (e : WaitEntry) (q : List PoolIx) (wait : Ticks) :
    Rearms s (s.allocate i e q wait) := by
  have placed : Rearms s ((s.setEntry i (some e)).setQueue e.resource q) := .same rfl rfl
  have armed : ∀ u : State, Rearms u (u.armWait i wait) := fun u => by
    unfold State.armWait
    split
    · exact .refl u
    · exact u.arm_rearms _ wait
  exact (placed.trans (armed _)).trans (State.report_rearms _ _ _)

theorem State.grant_rearms (r : Res) (c : Client) (m : Mode) (hold : Ticks) :
    Rearms s (s.grant r c m hold) := by
  rw [State.grant_eq]
  exact ⟨rfl, .single ⟨_, _, rfl⟩⟩

theorem State.grantEntry_rearms (r : Res) (i : PoolIx) (e : WaitEntry) :
    Rearms s (s.grantEntry r i e) :=
  ((s.removeEntry_rearms i).trans (State.grant_rearms _ r _ _ _)).trans
    (State.notify_rearms _ _ _ _)

theorem State.grantRule_rearms (r : Res) : Rearms s (s.grantRule r) := by
  unfold State.grantRule
  split
  · exact State.grantHeads_keeps (P := Rearms s)
      (fun t i e _ _ _ ht => ht.trans (t.grantEntry_rearms r i e)) _ (.refl s)
  · exact .refl s

/-! The release path -/

theorem State.vacate_rearms (r : Res) (c : Client) : Rearms s (s.vacate r c) :=
  ((s.setRecord_rearms r _).trans (State.disarm_rearms _ _)).trans (State.report_rearms _ r c)

theorem State.lastHolderLeft_rearms (r : Res) : Rearms s (s.lastHolderLeft r) := by
  have left : Rearms s
      (if (s.record r).state = .revoking then s.disarm (.grace r) else s) := by
    split
    · exact s.disarm_rearms _
    · exact .refl s
  unfold State.lastHolderLeft
  dsimp only
  generalize (if (s.record r).state = .revoking then s.disarm (.grace r) else s) = t at left ⊢
  have written : ∀ x : Record, Rearms s (t.setRecord r x) := fun x =>
    left.trans (t.setRecord_rearms r x)
  split
  · exact (written _).trans (State.arm_rearms _ _ _)
  · split
    · exact written _
    · exact (written _).trans (State.grantRule_rearms _ r)

theorem State.endLease_rearms (r : Res) (c : Client) (quiet : Bool) :
    Rearms s (s.endLease r c quiet) := by
  have vacated := s.vacate_rearms r c
  rw [State.endLease_eq]
  split
  · exact vacated.trans (State.lastHolderLeft_rearms _ r)
  · split
    · exact vacated.trans (State.grantRule_rearms _ r)
    · exact vacated

theorem State.removeHolders_rearms (r : Res) : Rearms s (s.removeHolders r) := by
  refine .foldl (fun t c => ?_) _ s
  unfold State.removeHolder
  split
  · exact (t.notify_rearms _ _ _).trans (State.endLease_rearms _ r c true)
  · exact .refl t

theorem State.revokeAtOnce_rearms (r : Res) : Rearms s (s.revokeAtOnce r) :=
  ((s.cancelUpgrade_rearms r).trans (State.removeHolders_rearms _ r)).trans
    (State.raise_rearms _ _)

/-- A revocation with grace arms the GRACE deadline alone (R87). -/
theorem State.revokeWithGrace_rearms (r : Res) : Rearms s (s.revokeWithGrace r) := by
  have warned : ∀ (l : List Client) (u : State), Rearms u (l.foldl (State.warnHolder r) u) :=
    .foldl fun t c => by
      unfold State.warnHolder
      split
      · exact t.notify_rearms _ _ _
      · exact .refl t
  exact (((s.cancelUpgrade_rearms r).trans (warned _ _)).trans
    (State.setRecord_rearms _ r _)).trans (State.arm_rearms _ _ _)

/-! Sessions -/

theorem State.reportRemoved_rearms (c : Client) (n : Notice) :
    Rearms s (s.reportRemoved c n) := by
  cases n with
  | resource r _ _ => exact s.report_rearms r c
  | sessionLapsed _ => exact .refl s
  | sessionEvicted _ => exact .refl s

theorem State.releaseResource_rearms (c : Client) (r : Res) :
    Rearms s (State.releaseResource c s r) := by
  have waitDropped : Rearms s (s.dropWait c r) := by
    unfold State.dropWait
    split
    · exact (s.removeEntry_rearms _).trans (State.grantRule_rearms _ r)
    · exact .refl s
  unfold State.releaseResource State.dropLease
  split
  · exact waitDropped.trans (State.endLease_rearms _ r c false)
  · exact waitDropped

theorem State.massRelease_rearms (c : Client) : Rearms s (s.massRelease c) := by
  have released := Rearms.foldl (fun t r => t.releaseResource_rearms c r) allResources s
  have discarded : ∀ u : State, Rearms u (u.discardNotices c) := fun u =>
    (u.setNoticeQueue_rearms c _).trans (.foldl (fun t n => t.reportRemoved_rearms c n) _ _)
  exact released.trans (discarded _)

theorem State.closeNow_rearms (c : Client) : Rearms s (s.closeNow c) :=
  ((s.disarm_rearms _).trans (State.massRelease_rearms _ c)).trans (State.setSession_rearms _ c _)

/-- The session ends with its notice placed (R113, R115). -/
theorem State.endWithNotice_rearms (c : Client) (n : Notice) (ended : PortState) :
    Rearms s (((s.massRelease c).placeSessionNotice c n).endSession c ended) :=
  ((s.massRelease_rearms c).trans (State.setNoticeQueue_rearms _ c _)).trans
    (State.setSession_rearms _ c _)

theorem State.evictNow_rearms (c : Client) : Rearms s (s.evictNow c) :=
  (s.disarm_rearms _).trans (State.endWithNotice_rearms _ c _ _)

theorem State.lapseNow_rearms (c : Client) : Rearms s (s.lapseNow c) :=
  (s.endWithNotice_rearms c _ _).trans (State.raise_rearms _ _)

theorem State.keepSession_rearms (c : Client) : Rearms s (s.keepSession c) := by
  unfold State.keepSession
  split
  · exact s.arm_rearms _ _
  · exact .refl s

theorem State.openNow_rearms (c : Client) (ttl : Ticks) : Rearms s (s.openNow c ttl) := by
  unfold State.openNow
  dsimp only
  refine .trans ?_ (State.setNoticeQueue_rearms _ c _)
  split
  · exact (s.setSession_rearms c _).trans (State.arm_rearms _ _ ttl)
  · exact s.setSession_rearms c _

/-! The deliveries -/

/-- What an owner does with an expiry arms and disarms, and nothing else on the list. -/
theorem State.deliver_rearms (id : DeadlineId) : Rearms s (s.deliver id) := by
  cases id with
  | hold r c =>
    show Rearms s (s.holdExpired r c)
    unfold State.holdExpired
    split
    · exact ((s.notify_rearms _ _ _).trans (State.removeUpgrade_rearms _ r c)).trans
        (State.endLease_rearms _ r c false)
    · exact .refl s
  | wait i =>
    show Rearms s (s.waitExpired i)
    unfold State.waitExpired
    split
    · exact ((s.notify_rearms _ _ _).trans (State.removeEntry_rearms _ i)).trans
        (State.grantRule_rearms _ _)
    · exact .refl s
  | session c =>
    show Rearms s (s.sessionExpired c)
    unfold State.sessionExpired
    split
    · exact s.lapseNow_rearms c
    · exact .refl s
  | grace r =>
    show Rearms s (s.graceExpired r)
    unfold State.graceExpired
    split
    · exact (s.removeHolders_rearms r).trans (State.raise_rearms _ _)
    · exact .refl s
  | guard r =>
    show Rearms s (s.guardExpired r)
    unfold State.guardExpired
    dsimp only
    split
    · split
      · exact s.setRecord_rearms r _
      · exact (s.setRecord_rearms r _).trans (State.grantRule_rearms _ r)
    · exact .refl s

end

end Sys2Proof.Machine
end

section
/-! PROOF. The tick event (R69 to R71, R77): its run of deliveries, what it leaves due, and that the
deadline list stays ordered across it and every other event. -/

namespace Sys2Proof.Machine

/-! The run of deliveries -/

/-- Number of list entries due now: what bounds the deliveries of a tick. -/
def State.dueCount (s : State) : Nat := s.deadlines.countP (Deadline.dueAt s.clock)

/-- A delivery takes one due entry off the list and makes none (R73, R77). -/
theorem State.dueCount_deliver {s : State} {d : Deadline} {rest : List Deadline}
    (head : s.deadlines = d :: rest) (due : d.due = s.clock) :
    ((s.setDeadlines rest).deliver d.id).dueCount < s.dueCount := by
  have hle := ((s.setDeadlines rest).deliver_rearms d.id).due.length_le
  have hcount : s.dueCount = (rest.filter (Deadline.dueAt s.clock)).length + 1 := by
    unfold State.dueCount
    rw [head, List.countP_cons_of_pos (Deadline.dueAt_iff.mpr due), List.countP_eq_length_filter]
  rw [hcount]
  unfold State.dueCount
  rw [List.countP_eq_length_filter]
  exact Nat.lt_succ_of_le hle

/-- With fuel for every entry that is due, the deliveries run to their end (R77). -/
theorem State.deliverDue_delivers {fuel : Nat} {s : State} (enough : s.dueCount ≤ fuel) :
    State.Delivers s (s.deliverDue fuel) := by
  induction fuel generalizing s with
  | zero =>
    refine .ended fun d hd hdue => ?_
    exact List.countP_eq_zero.mp (Nat.le_zero.mp enough) d (List.mem_of_mem_head? hd)
      (Deadline.dueAt_iff.mpr hdue)
  | succ fuel ih =>
    unfold State.deliverDue
    cases hl : s.deadlines with
    | nil => exact .ended (by rw [hl]; nofun)
    | cons d rest =>
      dsimp only
      by_cases hdue : d.due = s.clock
      · rw [if_pos hdue]
        refine .taken d rest hl hdue (ih ?_)
        exact Nat.le_of_lt_succ (Nat.lt_of_lt_of_le (State.dueCount_deliver hl hdue) enough)
      · rw [if_neg hdue]
        refine .ended fun e he => ?_
        rw [hl] at he
        exact Option.some.inj he ▸ hdue

/-- The tick is the clock's advance and the deliveries that follow it (R71, R77). -/
theorem State.tick_delivers (s : State) :
    State.Delivers (s.setClock (s.clock + 1)) s.tick :=
  State.deliverDue_delivers List.countP_le_length

/-- The rule of R77 leaves one state: it says at each head what comes next. -/
theorem State.Delivers.unique {s t u : State} (h : State.Delivers s t) (k : State.Delivers s u) :
    t = u := by
  induction h with
  | ended later =>
    cases k with
    | ended _ => rfl
    | taken d rest head due _ => exact absurd due (later d (by rw [head]; rfl))
  | taken d rest head due _ ih =>
    cases k with
    | ended later => exact absurd due (later d (by rw [head]; rfl))
    | taken d' rest' head' _ goesOn =>
      obtain ⟨rfl, rfl⟩ := List.cons.inj (head.symm.trans head')
      exact ih goesOn

/-- The deliveries keep the list ordered, and end with nothing due (R77). -/
theorem State.Delivers.deadlinesWf {s t : State} (h : State.Delivers s t)
    (ho : OrderedAt s.clock s.deadlines) : t.DeadlinesWf := by
  induction h with
  | ended later => exact State.deadlinesWf_iff.mpr ⟨ho, ho.later later⟩
  | @taken s t d rest head due _ ih =>
    refine ih ((State.deliver_rearms _ d.id).ordered ?_)
    exact ho.sublist (head ▸ List.sublist_cons_self d rest)

/-- A tick starts from a list without a due entry and leaves one (R71, R77). -/
theorem State.tick_deadlinesWf {s : State} (h : s.DeadlinesWf) : s.tick.DeadlinesWf := by
  obtain ⟨ordered, later⟩ := State.deadlinesWf_iff.mp h
  exact s.tick_delivers.deadlinesWf (ordered.succ later)

/-! Every event -/

theorem SameCore.rearms {s t : State} (h : SameCore s t) : Rearms s t := .same h.clock h.deadlines

theorem State.deadlinesWf_of_nil {s : State} (h : s.deadlines = []) : s.DeadlinesWf := by
  rw [State.deadlinesWf_iff, h]
  exact ⟨.nil _, nofun⟩

theorem Event.keeps_deadlinesWf (s t : State) (e : Event s t) (h : s.DeadlinesWf) :
    t.DeadlinesWf := by
  cases e with
  | outside same => exact same.rearms.deadlinesWf h
  | deviceReset same => exact State.deadlinesWf_of_nil same.deadlines
  | clearAll => exact State.deadlinesWf_of_nil rfl
  | tick => exact State.tick_deadlinesWf h
  | expiry id _ =>
    exact ((s.disarm_rearms id).trans (State.deliver_rearms _ id)).deadlinesWf h
  | kept c => exact (s.keepSession_rearms c).deadlinesWf h
  | opened c ttl _ => exact (s.openNow_rearms c ttl).deadlinesWf h
  | closed c _ => exact (s.closeNow_rearms c).deadlinesWf h
  | evicted c _ => exact (s.evictNow_rearms c).deadlinesWf h
  | policySet c p => exact (s.setSession_rearms c _).deadlinesWf h
  | fetched c n rest _ =>
    exact ((s.setNoticeQueue_rearms c _).trans (State.reportRemoved_rearms _ c n)).deadlinesWf h
  | attentionSet c m _ => exact (s.setNoticeQueue_rearms c _).deadlinesWf h
  | claimed c r m hold _ _ _ => exact (s.grant_rearms r c m hold).deadlinesWf h
  | claimQueued c r m hold wait i _ _ _ _ _ =>
    exact ((s.allocate_rearms i _ _ wait).trans (State.grantRule_rearms _ r)).deadlinesWf h
  | upgraded c r hold _ _ _ => exact (s.grant_rearms r c .exclusive hold).deadlinesWf h
  | upgradeQueued c r hold wait i _ _ _ _ _ =>
    exact ((s.allocate_rearms i _ _ wait).trans (State.grantRule_rearms _ r)).deadlinesWf h
  | renewed c r hold _ _ _ => exact (s.arm_rearms _ _).deadlinesWf h
  | released c r _ _ =>
    exact ((s.removeUpgrade_rearms r c).trans (State.endLease_rearms _ r c false)).deadlinesWf h
  | downgraded c r _ _ =>
    exact (((s.setRecord_rearms r _).trans (State.report_rearms _ r c)).trans
      (State.grantRule_rearms _ r)).deadlinesWf h
  | withdrawn c r i _ _ =>
    exact ((s.removeEntry_rearms i).trans (State.grantRule_rearms _ r)).deadlinesWf h
  | defined r a _ => exact (s.setRecord_rearms r _).deadlinesWf h
  | amended r a _ _ _ => exact (s.setRecord_rearms r _).deadlinesWf h
  | revoked r _ _ => exact (s.revokeWithGrace_rearms r).deadlinesWf h
  | revokedAtOnce r _ _ => exact (s.revokeAtOnce_rearms r).deadlinesWf h
  | retired r _ _ =>
    exact ((s.cancelQueue_rearms r).trans (State.setRecord_rearms _ r _)).deadlinesWf h
  | retiring r _ _ _ =>
    exact ((s.setRecord_rearms r _).trans (State.cancelQueue_rearms _ r)).deadlinesWf h

/-- Settles O54: every event keeps the list ordered, so every step does. -/
theorem deadlineListStaysOrdered : Obligations.DeadlineListStaysOrdered := fun _ _ h hstep =>
  step_keeps Event.keeps_deadlinesWf hstep h

/-! What a tick leaves alone -/

/-- Nothing outside the leases is in a session. -/
theorem State.sameOutside_endSession {s t : State} (h : s.sameOutside t) (c : Client)
    (ended : PortState) : s.sameOutside (t.endSession c ended) := h

theorem State.lapseNow_eq (s : State) (c : Client) :
    s.lapseNow c
      = (((s.massRelease c).placeSessionNotice c (.sessionLapsed (s.session c).number)).raise
          (.lapse c)).endSession c .lapsed := by
  have swap : ∀ u : State, (u.endSession c .lapsed).raise (.lapse c)
      = (u.raise (.lapse c)).endSession c .lapsed := fun _ => rfl
  exact swap _

theorem State.lapseNow_outside (s : State) (c : Client) : s.sameOutside (s.lapseNow c) := by
  have frame := ((s.massRelease_frame c).trans (State.placeSessionNotice_frame _ c
    (.sessionLapsed (s.session c).number))).trans (State.raise_frame _ (.lapse c))
  rw [State.lapseNow_eq]
  exact State.sameOutside_endSession frame.outside c _

theorem State.deliver_outside (s : State) (id : DeadlineId) : s.sameOutside (s.deliver id) := by
  cases id with
  | hold r c =>
    show s.sameOutside (s.holdExpired r c)
    unfold State.holdExpired
    split
    · exact (((s.notify_frame _ _ _).trans (State.removeUpgrade_frame _ r c)).trans
        (State.endLease_frame _ r c false)).outside
    · exact (LeaseFrame.refl s).outside
  | wait i =>
    show s.sameOutside (s.waitExpired i)
    unfold State.waitExpired
    split
    · exact (((s.notify_frame _ _ _).trans (State.removeEntry_frame _ i)).trans
        (State.grantRule_frame _ _)).outside
    · exact (LeaseFrame.refl s).outside
  | session c =>
    show s.sameOutside (s.sessionExpired c)
    unfold State.sessionExpired
    split
    · exact s.lapseNow_outside c
    · exact (LeaseFrame.refl s).outside
  | grace r =>
    show s.sameOutside (s.graceExpired r)
    unfold State.graceExpired
    split
    · exact ((s.removeHolders_frame r).trans (State.raise_frame _ _)).outside
    · exact (LeaseFrame.refl s).outside
  | guard r =>
    show s.sameOutside (s.guardExpired r)
    unfold State.guardExpired
    dsimp only
    split
    · split
      · exact (s.setRecord_frame r _).outside
      · exact ((s.setRecord_frame r _).trans (State.grantRule_frame _ r)).outside
    · exact (LeaseFrame.refl s).outside

/-- The deliveries of a tick leave the clock and the reference count. -/
theorem State.Delivers.clock_refCount {s t : State} (h : State.Delivers s t) :
    t.clock = s.clock ∧ t.refCount = s.refCount := by
  induction h with
  | ended _ => exact ⟨rfl, rfl⟩
  | @taken s t d rest _ _ _ ih =>
    obtain ⟨clock, -, refCount, -⟩ := State.deliver_outside { s with deadlines := rest } d.id
    obtain ⟨clock', refCount'⟩ := ih
    exact ⟨clock'.trans clock, refCount'.trans refCount⟩

/-! The tick event -/

/-- The state at the new clock value, before the deliveries: an internal tick restarts the reference
count (R70, R71). -/
def State.ticking (s : State) (src : TickSource) : State :=
  { s with
    clock := s.clock + 1
    refCount := if src = .internal then 0 else s.refCount }

theorem State.tickFrom_of_other {s : State} {src : TickSource} (h : s.timebase.source ≠ src) :
    s.tickFrom src = s := if_neg h

theorem State.tickFrom_delivers {s : State} {src : TickSource} (h : s.timebase.source = src) :
    State.Delivers (s.ticking src) (s.tickFrom src) := by
  unfold State.tickFrom
  rw [if_pos h]
  cases src with
  | internal => exact State.tick_delivers (s.setRefCount 0)
  | external => exact s.tick_delivers

/-- Settles O46: the rule of R77 leaves one state, so a run of it that ends where nothing or one
entry is due is the tick's. -/
theorem tickDeliversWhatIsDue : Obligations.TickDeliversWhatIsDue := by
  intro s src
  refine ⟨fun h => congrArg Host.Outcome.next (State.tickFrom_of_other h), fun h later => ?_,
    fun h => ?_⟩
  · have run := State.tickFrom_delivers h
    exact congrArg Host.Outcome.next
      (run.unique (.ended fun d hd => later d (List.mem_of_mem_head? hd)))
  · have run := State.tickFrom_delivers h
    obtain ⟨clock, refCount⟩ := run.clock_refCount
    refine ⟨_, rfl, run, clock, refCount, fun hs => ?_, fun d hd due others => ?_⟩
    · obtain ⟨ordered, later⟩ := State.deadlinesWf_iff.mp hs
      exact (State.deadlinesWf_iff.mp (run.deadlinesWf (ordered.succ later))).2
    · obtain ⟨rest, hrest⟩ := List.head?_eq_some_iff.mp hd
      rw [hrest, List.tail_cons] at others
      have delivered := State.deliver_rearms { s.ticking src with deadlines := rest } d.id
      rw [hrest, List.tail_cons]
      exact run.unique (.taken d rest hrest due
        (.ended fun e he => delivered.later others e (List.mem_of_mem_head? he)))

end Sys2Proof.Machine
end

section
/-! PROOF. Steps and single events: what a step takes first (R70), SET TIMEBASE (R80) and GUARD expiry
(R95). -/

namespace Sys2Proof.Machine

/-! One step -/

theorem step_of_pending {s : State} {c : Instr} {rest : List Instr} (h : s.pending = c :: rest) :
    step s = exec c (s.setPending rest) := by
  unfold step
  rw [h]

theorem step_of_bus {s : State} {e : BusEvent} {later : List BusEvent} (hp : s.pending = [])
    (h : s.bus = e :: later) : step s = .next ((s.setBus later).busEvent e) := by
  unfold step
  rw [hp, h]

theorem step_of_idle {s : State} (hp : s.pending = []) (hb : s.bus = []) :
    step s = .next s.referencePeriod := by
  unfold step
  rw [hp, hb]

theorem State.referencePeriod_of_external {s : State} (h : s.timebase.source = .external) :
    s.referencePeriod = s := by
  unfold State.referencePeriod
  rw [h]

theorem State.referencePeriod_of_internal {s : State} (h : s.timebase.source = .internal) :
    s.referencePeriod
      = if divisor s.timebase.period ≤ s.refCount + 1 then s.tickFrom .internal
        else s.setRefCount (s.refCount + 1) := by
  unfold State.referencePeriod State.tickFrom
  rw [h]
  rfl

/-- Settles O1: with no command and no wire event waiting the reference count rises, or the divider's
tick occurs. -/
theorem stepTakesTheFrontCommand : Obligations.StepTakesTheFrontCommand := by
  intro s c rest e later
  refine ⟨step_of_pending, step_of_bus, fun hp hb h => ?_, fun hp hb h below => ?_,
    fun hp hb h reached => ?_⟩
  · rw [step_of_idle hp hb, State.referencePeriod_of_external h]
  · rw [step_of_idle hp hb, State.referencePeriod_of_internal h]
    exact congrArg Host.Outcome.next (if_neg (Nat.not_le_of_lt below))
  · rw [step_of_idle hp hb, State.referencePeriod_of_internal h]
    exact congrArg Host.Outcome.next (if_pos reached)

/-! SET TIMEBASE (R80) -/

theorem sourceOf_of_le {v : Byte} (h : v.toNat ≤ 1) :
    sourceOf v = some (if v = 0 then .internal else .external) := by
  unfold sourceOf
  split
  · rfl
  · rename_i h0
    refine if_pos ?_
    bv_omega

theorem sourceOf_of_lt {v : Byte} (h : 1 < v.toNat) : sourceOf v = none := by
  have h0 : v ≠ 0 := by bv_omega
  have h1 : v ≠ 1 := by bv_omega
  unfold sourceOf
  rw [if_neg h0, if_neg h1]

/-- The two parameters are judged as one more check before the request's own. -/
theorem setTimebaseRule_checked (s : State) (v k : Byte) :
    setTimebaseRule [v, k] s
      = s.checked
          [ (decide (v.toNat ≤ 1 ∧ k.toNat < 4), .badParams),
            (s.deadlines.isEmpty, .liveDeadlines) ]
          (((s.setTimebase
              { source := if v = 0 then .internal else .external
                period := Fin.ofNat 4 k.toNat }).setRefCount 0).answer .ok) := by
  unfold setTimebaseRule
  dsimp only
  by_cases hv : v.toNat ≤ 1
  · by_cases hk : k.toNat < 4
    · rw [sourceOf_of_le hv, numberBelow_of_lt hk, decide_eq_true ⟨hv, hk⟩]
      rfl
    · rw [sourceOf_of_le hv, numberBelow_of_le (Nat.le_of_not_lt hk),
        decide_eq_false fun h => hk h.2]
      rfl
  · rw [sourceOf_of_lt (Nat.lt_of_not_le hv), decide_eq_false fun h => hv h.1]
    rfl

/-- Settles O41. -/
theorem setTimebaseRestartsTheCount : Obligations.SetTimebaseRestartsTheCount := by
  intro s tag v k
  have hP : PortFree (setTimebaseRequest.rule [v, k]) := portFree_setTimebase [v, k]
  have hrule := setTimebaseRule_checked s v k
  split <;> rename_i hf
  · exact congrArg Host.Outcome.next
      (State.supervisorRequest_refused (by decide) rfl hP hrule hf)
  · exact congrArg Host.Outcome.next
      (State.supervisorRequest_accepted (by decide) rfl hP hrule hf)

/-! GUARD expiry (R95) -/

theorem State.guardExpired_retiring {s : State} {r : Res} (hd : (s.record r).deadline = .guard)
    (hr : (s.record r).retirePending = true) : s.guardExpired r = s.goOffline r :=
  (if_pos hd).trans (if_pos hr)

theorem State.guardExpired_staying {s : State} {r : Res} (hd : (s.record r).deadline = .guard)
    (hr : (s.record r).retirePending = false) :
    s.guardExpired r
      = (s.setRecord r { s.record r with state := .idle, deadline := .absent }).grantRule r :=
  (if_pos hd).trans (if_neg (by rw [hr]; nofun))

theorem execGuardExpiry_armed {s : State} {r : Res} (harmed : s.armed (.guard r) = true) :
    exec (.guardExpiry r) s = .next ((s.disarm (.guard r)).guardExpired r) :=
  congrArg Host.Outcome.next (State.expire_of_armed harmed)

/-- Settles O51: the deadline is off the list when the record leaves DRAINING. -/
theorem guardExpiryEndsTheDrain : Obligations.GuardExpiryEndsTheDrain := by
  intro s r
  refine ⟨fun h => congrArg Host.Outcome.next (State.expire_of_not_armed h),
    fun harmed hd hr => ?_, fun harmed hd hr => ?_⟩
  · rw [execGuardExpiry_armed harmed, State.guardExpired_retiring (by exact hd) (by exact hr)]
    rfl
  · rw [execGuardExpiry_armed harmed, State.guardExpired_staying (by exact hd) (by exact hr)]
    rfl

end Sys2Proof.Machine
end

section
/-! PROOF. The mass release (R111) in the statements' terms: resource by resource, what it leaves of the
ending client, and that everything of the other clients and of the other resources stays. -/

namespace Sys2Proof.Machine

/-! A resource that is as it was -/

section
variable {s t u : State} {r k : Res} {c d : Client}

/-- The resource is as it was, for every client: `State.sameResource` without its exception. -/
structure SameAt (s t : State) (r : Res) : Prop where
  record : t.record r = s.record r
  queue : t.queue r = s.queue r
  entries : ∀ i ∈ s.queue r, t.entry i = s.entry i ∧ t.deadlineOf (.wait i) = s.deadlineOf (.wait i)
  hold : ∀ c, t.deadlineOf (.hold r c) = s.deadlineOf (.hold r c)
  grace : t.deadlineOf (.grace r) = s.deadlineOf (.grace r)
  guard : t.deadlineOf (.guard r) = s.deadlineOf (.guard r)
  notices : ∀ c, (t.noticeQueue c).queue.filter (Notice.about r)
    = (s.noticeQueue c).queue.filter (Notice.about r)
  involves : ∀ c, (t.session c).involves r = (s.session c).involves r

theorem SameAt.refl (s : State) (r : Res) : SameAt s s r :=
  ⟨rfl, rfl, fun _ _ => ⟨rfl, rfl⟩, fun _ => rfl, rfl, rfl, fun _ => rfl, fun _ => rfl⟩

theorem SameAt.trans (h : SameAt s t r) (k : SameAt t u r) : SameAt s u r := by
  refine ⟨k.record.trans h.record, k.queue.trans h.queue, fun i hi => ?_,
    fun c => (k.hold c).trans (h.hold c), k.grace.trans h.grace, k.guard.trans h.guard,
    fun c => (k.notices c).trans (h.notices c), fun c => (k.involves c).trans (h.involves c)⟩
  obtain ⟨entry, deadline⟩ := h.entries i hi
  obtain ⟨entry', deadline'⟩ := k.entries i (h.queue ▸ hi)
  exact ⟨entry'.trans entry, deadline'.trans deadline⟩

theorem SameAt.sameResource (h : SameAt s t r) (c : Client) : s.sameResource t c r :=
  ⟨h.record, h.queue, h.entries, h.hold, h.grace, h.guard, fun d _ => ⟨h.notices d, h.involves d⟩⟩

theorem SameAt.holds (h : SameAt s t r) (c : Client) : t.holds r c = s.holds r c := by
  unfold State.holds
  rw [h.record]

theorem SameAt.waits (h : SameAt s t r) (c : Client) : t.waits r c = s.waits r c := by
  unfold State.waits State.waitOf
  rw [h.queue, List.find?_congr fun i hi => ?_]
  unfold State.entryOf
  rw [(h.entries i hi).1]

/-- Whether a notice about the resource is unread, read off the notices about it. -/
theorem State.unread_eq (s : State) (r : Res) (c : Client) :
    s.unread r c = !((s.noticeQueue c).queue.filter (Notice.about r)).isEmpty := by
  unfold State.unread
  rw [Bool.eq_iff_iff]
  simp [List.filter_eq_nil_iff]

theorem SameAt.unread (h : SameAt s t r) (c : Client) : t.unread r c = s.unread r c := by
  rw [State.unread_eq, State.unread_eq, h.notices]

theorem SameAt.concerns (h : SameAt s t r) (c : Client) : t.concerns r c = s.concerns r c := by
  unfold State.concerns
  rw [h.holds, h.waits, h.unread]

/-- A deadline that does not belong to the resource stays as it was. -/
theorem State.deadlineOf_elsewhere (e : s.sameElsewhere t k) {id : DeadlineId}
    (away : ∀ d : Deadline, d.id = id → s.awayFrom k d = true) :
    t.deadlineOf id = s.deadlineOf id := by
  obtain ⟨-, -, deadlines, -⟩ := e
  have kept : ∀ l : List Deadline,
      (l.filter (s.awayFrom k)).find? (fun d => d.id == id) = l.find? fun d => d.id == id := by
    intro l
    rw [List.find?_filter]
    refine List.find?_congr fun d _ => ?_
    by_cases hd : d.id = id
    · simp [hd, away d hd]
    · simp [hd]
  unfold State.deadlineOf
  rw [← kept, deadlines, kept]

/-- What happens on one resource leaves every other as it was. -/
theorem State.sameAt_of_elsewhere (e : s.sameElsewhere t k) (hp : s.PoolWf) (hr : r ≠ k) :
    SameAt s t r := by
  have deadline := fun id => State.deadlineOf_elsewhere (id := id) e
  obtain ⟨records, entries, -, notices, involves, -⟩ := e
  have other : ∀ i ∈ s.queue r, s.waitsOn i ≠ some k := fun i hi hw =>
    hr (Option.some.inj (((hp.2 r i).mp hi).symm.trans hw))
  have about : ∀ q : List Notice,
      (q.filter fun n => !n.about k).filter (Notice.about r) = q.filter (Notice.about r) := by
    intro q
    rw [List.filter_filter]
    refine List.filter_congr fun n _ => ?_
    cases n with
    | resource r' w j =>
      by_cases hn : r' = r
      · simp [Notice.about, hn, hr]
      · simp [Notice.about, hn]
    | sessionLapsed j => rfl
    | sessionEvicted j => rfl
  refine ⟨(records r hr).1, (records r hr).2,
    fun i hi => ⟨entries i (other i hi), deadline _ fun d hd => ?_⟩,
    fun c => deadline _ fun d hd => ?_, deadline _ fun d hd => ?_, deadline _ fun d hd => ?_,
    fun c => ?_, fun c => involves c r hr⟩
  · simpa [State.awayFrom, hd] using other i hi
  · simpa [State.awayFrom, hd] using hr
  · simpa [State.awayFrom, hd] using hr
  · simpa [State.awayFrom, hd] using hr
  · rw [← about, notices, about]

/-! What the grant rule tells a client that does not wait -/

/-- A run of the grant rule over other clients' entries reports nothing of the client. -/
theorem State.session_grantHeads (q : List PoolIx)
    (hq : ∀ i ∈ q, ∀ e ∈ s.entry i, e.resource = r ∧ e.client ≠ c) :
    (s.grantHeads r q).session c = s.session c := by
  induction q generalizing s with
  | nil => rfl
  | cons i rest ih =>
    by_cases stops : ∀ e ∈ s.entry i, s.exhausted = true ∨ (s.record r).compatible e = false
    · rw [State.grantHeads_cons_stopped stops]
    · push Not at stops
      obtain ⟨e, he, hx, hcomp⟩ := stops
      obtain ⟨rfl, hc⟩ := hq i List.mem_cons_self e he
      have own : (s.grantEntry e.resource i e).session c = s.session c := by
        rw [State.grantEntry_eq he]
        exact (Vec.get_set _ _ _ _).trans (if_neg hc.symm)
      rw [State.grantHeads_cons_granted he (Bool.eq_false_of_not_eq_true hx)
        (Bool.eq_true_of_not_eq_false hcomp), ih fun j hj f hf => ?_, own]
      rw [State.grantEntry_entry] at hf
      exact hq j (List.mem_cons_of_mem _ hj) f (s.removeEntry_entry i j f hf)

theorem State.session_grantRule (hp : s.PoolWf) (hw : s.waits r c = false) :
    (s.grantRule r).session c = s.session c := by
  unfold State.grantRule
  split
  · exact State.session_grantHeads _ fun i hi e he =>
      ⟨hp.resource_of_mem r i hi e he, State.client_ne_of_not_waits hw hi he⟩
  · rfl

theorem State.session_arm (s : State) (id : DeadlineId) (n : Ticks) (c : Client) :
    (s.arm id n).session c = s.session c := by
  rw [State.arm_eq]
  rfl

theorem State.session_lastHolderLeft (hp : s.PoolWf) (hw : s.waits r c = false) :
    (s.lastHolderLeft r).session c = s.session c := by
  have left : SameLeases s (if (s.record r).state = .revoking then s.disarm (.grace r) else s)
      ∧ (if (s.record r).state = .revoking then s.disarm (.grace r) else s).session c
        = s.session c := by
    split
    · exact ⟨s.disarm_sameLeases _, rfl⟩
    · exact ⟨.refl s, rfl⟩
  unfold State.lastHolderLeft
  dsimp only
  generalize (if (s.record r).state = .revoking then s.disarm (.grace r) else s) = v at left ⊢
  obtain ⟨same, session⟩ := left
  split
  · rw [State.session_arm]
    exact session
  · split
    · exact session
    · have idle : ∀ x : Record, ((v.setRecord r x).grantRule r).session c = s.session c :=
        fun x => (State.session_grantRule (s := v.setRecord r x)
          ((same.poolWf hp).congr (fun _ => rfl) fun _ => rfl)
          ((same.waits r c).trans hw)).trans session
      exact idle _

/-- After its slot is emptied the client hears nothing more of the resource (R33). -/
theorem State.session_endLease (hp : s.PoolWf) (hw : s.waits r c = false) (quiet : Bool) :
    (s.endLease r c quiet).session c = (s.vacate r c).session c := by
  have pool : (s.vacate r c).PoolWf := hp.congr (s.queue_vacate r c) (s.entry_vacate r c)
  have waits : (s.vacate r c).waits r c = false :=
    ((s.vacate_sameLeases r c).waits r c).trans hw
  rw [State.endLease_eq]
  split
  · exact State.session_lastHolderLeft pool waits
  · split
    · exact State.session_grantRule pool waits
    · rfl

/-- A client that keeps its lease and does not wait is involved as before. -/
theorem GainsNothing.concerns (h : GainsNothing s t r c) (hw : s.waits r c = false)
    (kept : s.holds r c = true → t.holds r c = true) : t.concerns r c = s.concerns r c := by
  have holds : t.holds r c = s.holds r c := Bool.eq_iff_iff.mpr ⟨h.holds, kept⟩
  unfold State.concerns State.unread
  rw [holds, h.not_waits hw, hw, h.notices]

/-! One resource of the mass release -/

theorem State.dropWait_of_not_waits (hw : s.waits r c = false) : s.dropWait c r = s := by
  have hnone : s.waitOf r c = none := by simpa [State.waits] using hw
  unfold State.dropWait
  rw [hnone]

theorem State.holds_dropWait (h : s.holds r d = true) : (s.dropWait c r).holds r d = true := by
  unfold State.dropWait
  split
  · exact State.holds_grantRule ((s.holds_removeEntry _ r d).trans h)
  · exact h

theorem State.releaseResource_elsewhere {Q : Res → Client → Prop} (h : s.Engaged Q) (c : Client)
    (r : Res) : s.sameElsewhere (State.releaseResource c s r) r := by
  have dropped : s.sameElsewhere (s.dropWait c r) r := by
    unfold State.dropWait
    split
    · rename_i i hi
      have own := h.pool.resource_of_mem r i (List.mem_of_find?_eq_some hi)
      exact State.sameElsewhere_trans (s.removeEntry_elsewhere own)
        (State.grantRule_elsewhere _ ((h.pool.removeEntry i).resource_of_mem r))
    · exact s.sameElsewhere_refl r
  obtain ⟨hd, -⟩ := h.dropWait c r
  unfold State.releaseResource State.dropLease
  split
  · exact State.sameElsewhere_trans dropped
      (State.endLease_elsewhere _ c false (hd.pool.resource_of_mem r))
  · exact dropped

/-- The removal of the client's entry reports the pair, and what follows changes neither side
(R118). -/
theorem State.dropWait_involves {Q : Res → Client → Prop} (h : s.Engaged Q)
    (hi : (s.session c).involves r = s.concerns r c) :
    ((s.dropWait c r).session c).involves r = (s.dropWait c r).concerns r c := by
  unfold State.dropWait
  cases hw : s.waitOf r c with
  | none => exact hi
  | some i =>
    obtain ⟨e, he, rfl⟩ := h.pool.entry_of_mem (List.mem_of_find?_eq_some hw)
    obtain ⟨f, hf, rfl⟩ := State.entryOf_iff.mp (List.find?_some hw)
    obtain rfl : e = f := Option.some.inj (he.symm.trans hf)
    have pool := h.pool.removeEntry i
    have waits := h.not_waits_removeEntry he
    have reported : ((s.removeEntry i).session e.client).involves e.resource
        = (s.removeEntry i).concerns e.resource e.client := by
      rw [State.removeEntry_of_entry he]
      unfold State.report
      rw [State.session_setSession_self, Session.involves_setInvolves, if_pos rfl]
      rfl
    dsimp only
    rw [State.session_grantRule pool waits,
      (State.grantRule_gainsNothing pool waits).concerns waits State.holds_grantRule]
    exact reported

/-- What the release of a resource leaves of the client on it, and of the others. -/
structure LeftBy (s t : State) (r : Res) (c : Client) : Prop where
  not_holds : t.holds r c = false
  not_waits : t.waits r c = false
  disarmed : s.holds r c = true → t.armed (.hold r c) = false
  involves : (t.session c).involves r = t.unread r c
  others : ∀ d, d ≠ c → s.holds r d = true → t.holds r d = true
  untouched : s.holds r c = false → s.waits r c = false → SameAt s t r

theorem State.releaseResource_leftBy {Q : Res → Client → Prop} (h : s.Engaged Q)
    (hi : (s.session c).involves r = s.concerns r c) :
    LeftBy s (State.releaseResource c s r) r c := by
  obtain ⟨hd, hw⟩ := h.dropWait c r
  have involves := State.dropWait_involves h hi
  have untouched : s.holds r c = false → s.waits r c = false →
      SameAt s (State.releaseResource c s r) r := fun hh hw => by
    unfold State.releaseResource State.dropLease
    rw [State.dropWait_of_not_waits hw, hh]
    exact .refl s r
  have kept : ∀ d, s.holds r d = true → (s.dropWait c r).holds r d = true := fun d =>
    State.holds_dropWait
  unfold State.releaseResource State.dropLease at untouched ⊢
  generalize s.dropWait c r = u at *
  cases hc : u.holds r c with
  | true =>
    rw [if_pos hc] at untouched
    have e := State.endLease_ended hd.pool hw hc
    have session : ((u.endLease r c false).session c).involves r = u.unread r c := by
      rw [State.session_endLease hd.pool hw, State.vacate_eq]
      refine (congrArg (fun x : Session => x.involves r)
        (State.session_setSession_self u c _)).trans ?_
      rw [Session.involves_setInvolves, if_pos rfl, hw, Bool.false_or]
    rw [if_pos rfl]
    refine ⟨e.not_holds, e.not_waits, fun _ => e.not_armed, ?_,
      fun d hne hh => e.others d hne (kept d hh), untouched⟩
    unfold State.unread at session ⊢
    rw [session, e.notices]
  | false =>
    have hc' : ¬u.holds r c = true := Bool.eq_false_iff.mp hc
    rw [if_neg hc'] at untouched
    rw [if_neg nofun]
    refine ⟨hc, hw, fun hh => absurd (kept c hh) hc', ?_, fun d _ => kept d, untouched⟩
    rw [involves]
    unfold State.concerns
    rw [hc, hw]
    rfl

/-! Resource by resource -/

theorem LeftBy.after (h : SameAt s t r) (k : LeftBy t u r c) : LeftBy s u r c := by
  refine ⟨k.not_holds, k.not_waits, fun hh => k.disarmed ((h.holds c).trans hh), k.involves,
    fun d hd hh => k.others d hd ((h.holds d).trans hh), fun hh hw => h.trans ?_⟩
  exact k.untouched ((h.holds c).trans hh) ((h.waits c).trans hw)

theorem LeftBy.before (h : LeftBy s t r c) (k : SameAt t u r) : LeftBy s u r c := by
  refine ⟨(k.holds c).trans h.not_holds, (k.waits c).trans h.not_waits, fun hh => ?_, ?_,
    fun d hd hh => (k.holds d).trans (h.others d hd hh), fun hh hw => (h.untouched hh hw).trans k⟩
  · unfold State.armed
    rw [k.hold]
    exact h.disarmed hh
  · rw [k.involves, k.unread, h.involves]

/-- Every resource of the list is released; every other is as it was. -/
theorem State.releaseResources_leave {Q : Res → Client → Prop} {l : List Res} (nodup : l.Nodup)
    (h : s.Engaged Q) (hi : ∀ r ∈ l, (s.session c).involves r = s.concerns r c) (r : Res) :
    (r ∈ l → LeftBy s (l.foldl (State.releaseResource c) s) r c)
      ∧ (r ∉ l → SameAt s (l.foldl (State.releaseResource c) s) r) := by
  induction l generalizing s Q with
  | nil => exact ⟨fun hr => absurd hr List.not_mem_nil, fun _ => .refl s r⟩
  | cons k rest ih =>
    obtain ⟨hk, hrest⟩ := List.nodup_cons.mp nodup
    have first := State.releaseResource_leftBy h (hi k List.mem_cons_self)
    have others : ∀ r, r ≠ k → SameAt s (State.releaseResource c s k) r := fun r hr =>
      State.sameAt_of_elsewhere (State.releaseResource_elsewhere h c k) h.pool hr
    obtain ⟨released, same⟩ := ih hrest (h.releaseResource c k) fun r hr => by
      have at_r := others r fun e => hk (e ▸ hr)
      rw [at_r.involves, at_r.concerns, hi r (List.mem_cons_of_mem _ hr)]
    rw [List.foldl_cons]
    refine ⟨fun hr => ?_, fun hr => ?_⟩
    · by_cases hrk : r = k
      · subst hrk
        exact first.before (same hk)
      · exact (released ((List.mem_cons.mp hr).resolve_left hrk)).after (others r hrk)
    · obtain ⟨hrk, hr⟩ := not_or.mp (mt List.mem_cons.mpr hr)
      exact (others r hrk).trans (same hr)

theorem State.deadlineOf_session_releaseResources {Q : Res → Client → Prop} (h : s.Engaged Q)
    (l : List Res) (d : Client) :
    (l.foldl (State.releaseResource c) s).deadlineOf (.session d) = s.deadlineOf (.session d) := by
  induction l generalizing s Q with
  | nil => rfl
  | cons r rest ih =>
    rw [List.foldl_cons, ih (h.releaseResource c r)]
    exact State.deadlineOf_elsewhere (State.releaseResource_elsewhere h c r)
      fun _ hd => by simp [State.awayFrom, hd]

/-! Changes of one client's own session and notices -/

/-- Nothing differs but the client's session, its notices, the ports and the event set. -/
structure OwnChange (s t : State) (c : Client) : Prop where
  leases : SameLeases s t
  deadlines : t.deadlines = s.deadlines
  sessions : ∀ d, d ≠ c → t.session d = s.session d
  notices : ∀ d, d ≠ c → t.noticeQueue d = s.noticeQueue d

theorem OwnChange.refl (s : State) (c : Client) : OwnChange s s c :=
  ⟨.refl s, rfl, fun _ _ => rfl, fun _ _ => rfl⟩

theorem OwnChange.trans (h : OwnChange s t c) (k : OwnChange t u c) : OwnChange s u c :=
  ⟨h.leases.trans k.leases, k.deadlines.trans h.deadlines,
    fun d hd => (k.sessions d hd).trans (h.sessions d hd),
    fun d hd => (k.notices d hd).trans (h.notices d hd)⟩

theorem State.setSession_own (s : State) (c : Client) (x : Session) :
    OwnChange s (s.setSession c x) c :=
  ⟨s.setSession_sameLeases c x, rfl, fun d hd => (s.session_setSession c x d).trans (if_neg hd),
    fun _ _ => rfl⟩

theorem State.setNoticeQueue_own (s : State) (c : Client) (x : NoticeQueue) :
    OwnChange s (s.setNoticeQueue c x) c :=
  ⟨s.setNoticeQueue_sameLeases c x, rfl, fun _ _ => rfl,
    fun d hd => (s.noticeQueue_setNoticeQueue c x d).trans (if_neg hd)⟩

theorem State.raise_own (s : State) (e : EventSource) (c : Client) : OwnChange s (s.raise e) c :=
  ⟨s.raise_sameLeases e, rfl, fun _ _ => rfl, fun _ _ => rfl⟩

theorem State.reportRemoved_own (s : State) (c : Client) (n : Notice) :
    OwnChange s (s.reportRemoved c n) c := by
  cases n with
  | resource r _ _ => exact s.setSession_own c _
  | sessionLapsed _ => exact .refl s c
  | sessionEvicted _ => exact .refl s c

theorem State.discardNotices_own (s : State) (c : Client) : OwnChange s (s.discardNotices c) c :=
  List.foldlRecOn (motive := fun t : State => OwnChange s t c) _ _ (s.setNoticeQueue_own c _)
    fun t h n _ => h.trans (t.reportRemoved_own c n)

/-- The other clients see the resource as it was. -/
theorem OwnChange.sameResource (h : OwnChange t u c) (k : s.sameResource t c r) :
    s.sameResource u c r := by
  have deadline := State.deadlineOf_congr h.deadlines
  obtain ⟨record, queue, entries, hold, grace, guard, others⟩ := k
  refine ⟨(h.leases.record r).trans record, (h.leases.queue r).trans queue, fun i hi => ?_,
    fun d => (deadline _).trans (hold d), (deadline _).trans grace, (deadline _).trans guard,
    fun d hd => ?_⟩
  · obtain ⟨entry, waits⟩ := entries i hi
    exact ⟨(h.leases.entry i).trans entry, (deadline _).trans waits⟩
  · rw [h.notices d hd, h.sessions d hd]
    exact others d hd

/-! The notices discarded (R127) -/

/-- While the client neither holds nor waits nor has an unread notice, each report takes a resource
out of its involvement set, and puts none in (R118). -/
theorem State.involves_foldl_reportRemoved (q : List Notice)
    (idle : ∀ r, s.concerns r c = false) :
    ((q.foldl (fun t n => t.reportRemoved c n) s).session c).involves r
      = (!q.any (Notice.about r) && (s.session c).involves r) := by
  induction q generalizing s with
  | nil => rfl
  | cons n rest ih =>
    have stays : ∀ k, (s.reportRemoved c n).concerns k c = false := by
      intro k
      have h : (s.reportRemoved c n).concerns k c = s.concerns k c := by cases n <;> rfl
      rw [h, idle]
    have one : ((s.reportRemoved c n).session c).involves r
        = (!n.about r && (s.session c).involves r) := by
      cases n with
      | resource k w j =>
        show ((s.report k c).session c).involves r = _
        unfold State.report
        rw [State.session_setSession_self, Session.involves_setInvolves, idle]
        by_cases hk : r = k
        · simp [Notice.about, hk]
        · simp [Notice.about, hk, Ne.symm hk]
      | sessionLapsed j => rfl
      | sessionEvicted j => rfl
    rw [List.foldl_cons, ih stays, one, List.any_cons, Bool.not_or, ← Bool.and_assoc,
      Bool.and_comm (!rest.any _)]

/-- Once its notices are discarded, a client that neither holds nor waits is involved in nothing. -/
theorem State.involves_discardNotices (hh : ∀ r, s.holds r c = false)
    (hw : ∀ r, s.waits r c = false) (hi : ∀ r, (s.session c).involves r = s.unread r c) (r : Res) :
    ((s.discardNotices c).session c).involves r = false := by
  have idle : ∀ k, (s.setNoticeQueue c { s.noticeQueue c with queue := [] }).concerns k c
      = false := by
    intro k
    have unread : (s.setNoticeQueue c { s.noticeQueue c with queue := [] }).unread k c
        = false := by
      unfold State.unread
      rw [State.noticeQueue_setNoticeQueue_self]
      rfl
    show (s.holds k c || s.waits k c || State.unread _ k c) = false
    rw [hh, hw, unread]
    rfl
  unfold State.discardNotices
  dsimp only
  rw [State.involves_foldl_reportRemoved _ idle, State.session_setNoticeQueue, hi]
  exact Bool.not_and_self _

/-! The mass release -/

/-- What the end of a session leaves of the client's leases and waits, and of everything else
(R111). -/
structure Released (s t : State) (c : Client) : Prop where
  frame : LeaseFrame s t
  entries : ∀ i, t.entryOf c i = false
  holds : ∀ r, t.holds r c = false
  disarmed : ∀ r, s.holds r c = true → t.armed (.hold r c) = false
  sessions : ∀ d, t.deadlineOf (.session d) = s.deadlineOf (.session d)
  leases : ∀ d, d ≠ c → ∀ r, s.holds r d = true → t.holds r d = true
  untouched : s.othersUntouched t c

theorem Released.follow (h : Released s t c) (e : OwnChange t u c) (frame : LeaseFrame t u) :
    Released s u c := by
  have deadline := State.deadlineOf_congr e.deadlines
  refine ⟨h.frame.trans frame, fun i => (e.leases.entryOf c i).trans (h.entries i),
    fun r => (e.leases.holds r c).trans (h.holds r),
    fun r hh => (State.armed_congr e.deadlines _).trans (h.disarmed r hh),
    fun d => (deadline _).trans (h.sessions d),
    fun d hd r hh => (e.leases.holds r d).trans (h.leases d hd r hh),
    fun r hh hw => e.sameResource (h.untouched r hh hw)⟩

/-- The mass release of a client whose involvement set is what it holds, waits on and has unread
(R111, R118). -/
theorem State.massRelease_released {Q : Res → Client → Prop} (h : s.Engaged Q)
    (hi : ∀ r, (s.session c).involves r = s.concerns r c) :
    Released s (s.massRelease c) c
      ∧ ∀ r, ((s.massRelease c).session c).involves r = false := by
  have left : ∀ r, LeftBy s (allResources.foldl (State.releaseResource c) s) r c := fun r =>
    (State.releaseResources_leave (List.nodup_finRange 64) h (fun r _ => hi r) r).1
      (List.mem_finRange r)
  have engaged := h.releaseResources c allResources
  have entries : ∀ i, (allResources.foldl (State.releaseResource c) s).entryOf c i = false := by
    intro i
    refine Bool.eq_false_of_not_eq_true fun ho => ?_
    obtain ⟨e, he, hc⟩ := State.entryOf_iff.mp ho
    obtain ⟨-, hnot⟩ := engaged.waiters he
    exact hnot ⟨List.mem_finRange _, hc⟩
  have released : Released s (allResources.foldl (State.releaseResource c) s) c :=
    ⟨LeaseFrame.foldl (fun t r => t.releaseResource_frame c r) _ s, entries,
      fun r => (left r).not_holds, fun r => (left r).disarmed,
      State.deadlineOf_session_releaseResources h allResources,
      fun d hd r => (left r).others d hd,
      fun r hh hw => ((left r).untouched hh hw).sameResource c⟩
  exact ⟨released.follow (State.discardNotices_own _ c) (State.discardNotices_frame _ c),
    State.involves_discardNotices (fun r => (left r).not_holds) (fun r => (left r).not_waits)
      fun r => (left r).involves⟩

/-! A session that ends -/

/-- The session of a client that has nothing left ends: what the statements ask of it, where the
SESSION deadline went before the release (R111, R113, R115). -/
theorem Released.endSession (h : Released (s.disarm (.session c)) t c)
    (hi : ∀ r, (t.session c).involves r = false) (ended : PortState) :
    s.sessionGone (t.endSession c ended) c ∧ s.othersKeep (t.endSession c ended) c
      ∧ s.othersUntouched (t.endSession c ended) c := by
  have own : OwnChange t (t.endSession c ended) c := t.setSession_own c _
  have session : (t.endSession c ended).session c = { t.session c with port := ended, ttl := 0 } :=
    t.session_setSession_self c _
  have deadline := State.deadlineOf_congr own.deadlines
  have disarmed := fun id => State.deadlineOf_disarm s (id := .session c) (id' := id)
  refine ⟨⟨?ttl, ?armed, fun i => (own.leases.entryOf c i).trans (h.entries i), fun r =>
    ⟨(own.leases.holds r c).trans (h.holds r), ?involves, fun hh =>
      (State.armed_congr own.deadlines _).trans (h.disarmed r hh)⟩⟩, fun d hd => ⟨?same,
      ?kept, fun r hh => (own.leases.holds r d).trans (h.leases d hd r hh)⟩, fun r hh hw => ?_⟩
  case ttl => rw [session]
  case armed =>
    rw [State.armed_congr own.deadlines]
    unfold State.armed
    rw [h.sessions, State.deadlineOf_disarm_self]
    rfl
  case involves =>
    rw [session]
    exact hi r
  case same =>
    have same : (t.endSession c ended).session d = t.session d := own.sessions d hd
    unfold State.sameSession
    rw [same]
    exact h.frame.sessions d
  case kept =>
    exact ((deadline _).trans (h.sessions d)).trans
      (disarmed _ fun e => hd (DeadlineId.session.inj e))
  · obtain ⟨record, queue, entries, hold, grace, guard, others⟩ :=
      own.sameResource (h.untouched r hh hw)
    refine ⟨record, queue, fun i hi => ⟨(entries i hi).1, (entries i hi).2.trans ?_⟩,
      fun d => (hold d).trans ?_, grace.trans ?_, guard.trans ?_, others⟩ <;>
    exact disarmed _ nofun

end

end Sys2Proof.Machine
end

section
/-! PROOF. LAPSE (R113, R128): the mass release, the one notice, the end of the session and the event
source. -/

namespace Sys2Proof.Machine

section
variable {s : State} {c : Client}

/-- The client is told of the lapse of its session and the source is raised (R113, R128). -/
def State.tellLapse (t : State) (c : Client) (number : BitVec 16) : State :=
  (t.placeSessionNotice c (.sessionLapsed number)).raise (.lapse c)

theorem State.tellLapse_frame (t : State) (c : Client) (number : BitVec 16) :
    LeaseFrame t (t.tellLapse c number) :=
  (t.placeSessionNotice_frame c _).trans (State.raise_frame _ (.lapse c))

theorem State.tellLapse_own (t : State) (c : Client) (number : BitVec 16) :
    OwnChange t (t.tellLapse c number) c :=
  (t.setNoticeQueue_own c _).trans (State.raise_own _ (.lapse c) c)

theorem State.noticeQueue_tellLapse (t : State) (c : Client) (number : BitVec 16) :
    ((t.tellLapse c number).noticeQueue c).queue = [.sessionLapsed number] :=
  congrArg NoticeQueue.queue (t.noticeQueue_setNoticeQueue_self c _)

/-- A raised source is in the event set (R167). -/
theorem State.raise_raised (s : State) (e : EventSource) : (s.raise e).raised e = true := by
  have inSet : e.bit < 11 := by
    cases e with
    | lapse c => exact Nat.lt_trans c.isLt (by decide)
    | linkError c => exact Nat.lt_of_lt_of_le (Nat.add_lt_add_left c.isLt 4) (by decide)
    | poolFull => decide
    | forcedRevoke => decide
    | tokensOut => decide
  show (s.supervisor.events ||| BitVec.twoPow 11 e.bit).getLsbD e.bit = true
  simp [inSet]

/-- A session notice asserts its client's line under every mask (R134). -/
theorem State.attention_of_sessionLapsed {k : BitVec 16}
    (h : (s.noticeQueue c).queue = [.sessionLapsed k]) : s.attention c = true := by
  unfold State.attention NoticeQueue.attention
  rw [h]
  rfl

/-- LAPSE of an armed deadline: all is released, the client told, and the session ended. -/
theorem execLapse_armed (harmed : s.armed (.session c) = true) (ha : s.attached c = true) :
    exec (.lapse c) s
      = .next ((((s.disarm (.session c)).massRelease c).tellLapse c
          (s.session c).number).endSession c .lapsed) := by
  refine congrArg Host.Outcome.next ((State.expire_of_armed harmed).trans ?_)
  exact (if_pos ha).trans (State.lapseNow_eq _ c)

end

/-- Settles O49: the SESSION deadline goes first, so it is not armed again, and the mass release leaves
the client nothing. -/
theorem lapseEndsTheSession : Obligations.LapseEndsTheSession := by
  intro s c
  refine ⟨fun h => congrArg Host.Outcome.next (State.expire_of_not_armed h),
    fun hrecords hwaiters hinvolved harmed ha => ?_⟩
  have consistent : (s.disarm (.session c)).Consistent :=
    (State.consistent_iff.mpr ⟨hrecords, hwaiters⟩).disarm _
  obtain ⟨released, involves⟩ := State.massRelease_released consistent.engaged (hinvolved c)
  have run := execLapse_armed harmed ha
  generalize (s.disarm (.session c)).massRelease c = u at run released involves
  have told := released.follow (u.tellLapse_own c (s.session c).number) (u.tellLapse_frame c _)
  have notice := u.noticeQueue_tellLapse c (s.session c).number
  have raised : (u.tellLapse c (s.session c).number).raised (.lapse c) = true :=
    State.raise_raised _ _
  obtain ⟨gone, others, untouched⟩ := told.endSession involves .lapsed
  have frame := (s.disarm_frame (.session c)).trans told.frame
  obtain ⟨-, number, -, policy⟩ := frame.sessions c
  generalize u.tellLapse c (s.session c).number = t at *
  have session : (t.endSession c .lapsed).session c
      = { t.session c with port := .lapsed, ttl := 0 } := t.session_setSession_self c _
  exact ⟨_, run, gone, congrArg Session.port session,
    (congrArg Session.number session).trans number, (congrArg Session.policy session).trans policy,
    notice, State.attention_of_sessionLapsed notice, raised, others, untouched,
    State.sameOutside_endSession frame.outside c .lapsed, frame.cpis, frame.stored, frame.framing⟩

end Sys2Proof.Machine
end

section
/-! PROOF. RETIRE (R97, R98): every entry of the queue is cancelled, one at a time, and the record
goes to OFFLINE or keeps its holders under the retire-pending mark. -/

namespace Sys2Proof.Machine

section
variable {s t u : State} {r : Res} {i : PoolIx}

/-! One cancelled entry -/

/-- A cancelled entry: the notice, the removal, and the report (R50, R98). -/
theorem State.cancelEntry_eq_report {e : WaitEntry} (he : s.entry i = some e) :
    s.cancelEntry i
      = State.report
        { s.notify e.client e.resource .claimCancelled with
          queues := Vec.set s.queues e.resource ((s.queue e.resource).erase i)
          entries := Vec.set s.entries i none
          deadlines := withoutDeadline (.wait i) s.deadlines } e.resource e.client :=
  (State.cancelEntry_of_entry he).trans (State.removeEntry_of_entry he)

theorem State.cancelEntry_of_free (h : s.entry i = none) : s.cancelEntry i = s := by
  unfold State.cancelEntry
  rw [h]

theorem State.supervisor_cancelEntry (s : State) (i : PoolIx) :
    (s.cancelEntry i).supervisor = s.supervisor := by
  cases he : s.entry i with
  | none => rw [State.cancelEntry_of_free he]
  | some e =>
    rw [State.cancelEntry_eq_report he]
    rfl

theorem State.entry_cancelEntry (s : State) (i j : PoolIx) :
    (s.cancelEntry i).entry j = if j = i then none else s.entry j := by
  obtain ⟨u, same, removed⟩ := s.cancelEntry_eq i
  rw [removed, State.entry_removeEntry, same.entry]

/-- A cancelled entry's deadline is the only one that goes. -/
theorem State.deadlineOf_cancelEntry {id : DeadlineId} (h : id ≠ .wait i) :
    (s.cancelEntry i).deadlineOf id = s.deadlineOf id := by
  cases he : s.entry i with
  | none => rw [State.cancelEntry_of_free he]
  | some e =>
    rw [State.cancelEntry_eq_report he]
    exact s.deadlineOf_disarm h

theorem State.noticeQueue_notify (s : State) (c d : Client) (r : Res) (w : ResourceWord) :
    ((s.notify c r w).noticeQueue d).queue
      = if c = d then enqueueNotice r w (s.noticeQueue d).queue else (s.noticeQueue d).queue := by
  unfold State.notify
  rw [State.noticeQueue_setNoticeQueue]
  by_cases hd : d = c
  · rw [if_pos hd, if_pos hd.symm, hd]
  · rw [if_neg hd, if_neg (Ne.symm hd)]

/-! A run of cancellations -/

/-- The entries `q` of the resource's queue are cancelled: they are free, their deadlines are gone,
their clients are told, and the rest is as it was. -/
structure Cancelled (s t : State) (r : Res) (q : List PoolIx) : Prop where
  entry : ∀ j, t.entry j = if j ∈ q then none else s.entry j
  queue : ∀ j ∈ t.queue r, j ∈ s.queue r ∧ j ∉ q
  disarmed : ∀ j ∈ q, t.armed (.wait j) = false
  deadline : ∀ id, (∀ j ∈ q, id ≠ .wait j) → t.deadlineOf id = s.deadlineOf id
  notices : ∀ c, (t.noticeQueue c).queue
    = if q.any (s.entryOf c) then enqueueNotice r .claimCancelled (s.noticeQueue c).queue
      else (s.noticeQueue c).queue
  supervisor : t.supervisor = s.supervisor
  elsewhere : s.sameElsewhere t r

theorem Cancelled.refl (s : State) (r : Res) : Cancelled s s r [] :=
  ⟨fun _ => rfl, fun _ hj => ⟨hj, List.not_mem_nil⟩, fun _ hj => absurd hj List.not_mem_nil,
    fun _ _ => rfl, fun _ => rfl, rfl, s.sameElsewhere_refl r⟩

theorem State.PoolWf.cancelEntry_cancelled (h : s.PoolWf) (hi : i ∈ s.queue r) :
    Cancelled s (s.cancelEntry i) r [i] := by
  obtain ⟨e, he, rfl⟩ := h.entry_of_mem hi
  refine ⟨fun j => ?_, fun j hj => ?_, fun j hj => ?_, fun id hid => ?_, fun c => ?_,
    s.supervisor_cancelEntry i, ?_⟩
  · exact (s.entry_cancelEntry i j).trans (if_congr List.mem_singleton.symm rfl rfl)
  · have queue : (s.cancelEntry i).queue e.resource = (s.queue e.resource).erase i := by
      rw [State.cancelEntry_eq_report he]
      exact (Vec.get_set _ _ _ _).trans (if_pos rfl)
    rw [queue, (h.1 e.resource).mem_erase_iff] at hj
    exact ⟨hj.2, fun hmem => hj.1 (List.mem_singleton.mp hmem)⟩
  · rw [List.mem_singleton.mp hj, State.cancelEntry_eq_report he]
    exact s.armed_disarm_self (.wait i)
  · exact State.deadlineOf_cancelEntry (hid i (List.mem_singleton_self i))
  · rw [State.cancelEntry_eq_report he, List.any_cons, List.any_nil, Bool.or_false,
      State.entryOf_of_entry he]
    exact (s.noticeQueue_notify e.client c e.resource .claimCancelled).trans
      (if_congr beq_iff_eq.symm rfl rfl)
  · rw [State.cancelEntry_of_entry he]
    exact State.sameElsewhere_trans (s.notify_elsewhere e.client e.resource _)
      (State.removeEntry_elsewhere _ (h.resource_of_mem e.resource i hi))

/-- A cancelled entry, and then others of other clients. -/
theorem Cancelled.cons {q : List PoolIx} (h : Cancelled s u r [i]) (k : Cancelled u t r q)
    (fresh : i ∉ q) (one : ∀ c, s.entryOf c i = true → ∀ j ∈ q, s.entryOf c j = false) :
    Cancelled s t r (i :: q) := by
  have entryOf : ∀ c, q.any (u.entryOf c) = q.any (s.entryOf c) := fun c => by
    rw [← List.isSome_find?, ← List.isSome_find?]
    refine congrArg Option.isSome (List.find?_congr fun j hj => ?_)
    unfold State.entryOf
    rw [h.entry, if_neg fun hji : j ∈ [i] => fresh (List.mem_singleton.mp hji ▸ hj)]
  refine ⟨fun j => ?_, fun j hj => ?_, fun j hj => ?_, fun id hid => ?_, fun c => ?_,
    k.supervisor.trans h.supervisor, State.sameElsewhere_trans h.elsewhere k.elsewhere⟩
  · rw [k.entry, h.entry]
    by_cases hq : j ∈ q <;> simp [hq]
  · obtain ⟨hu, hq⟩ := k.queue j hj
    obtain ⟨hs, hi⟩ := h.queue j hu
    exact ⟨hs, fun hmem => (List.mem_cons.mp hmem).elim
      (fun e => hi (List.mem_singleton.mpr e)) hq⟩
  · by_cases hq : j ∈ q
    · exact k.disarmed j hq
    · have hji : j = i := (List.mem_cons.mp hj).resolve_right hq
      unfold State.armed
      rw [k.deadline (.wait j) fun l hl e => hq (DeadlineId.wait.inj e ▸ hl)]
      exact h.disarmed j (List.mem_singleton.mpr hji)
  · rw [k.deadline id fun j hj => hid j (List.mem_cons_of_mem i hj),
      h.deadline id fun j hj => hid j (List.mem_cons.mpr (.inl (List.mem_singleton.mp hj)))]
  · rw [k.notices, h.notices, entryOf, List.any_cons, List.any_cons, List.any_nil, Bool.or_false]
    cases hc : s.entryOf c i with
    | false => rfl
    | true =>
      have others : q.any (s.entryOf c) = false := List.any_eq_false.mpr fun j hj => by
        rw [one c hc j hj]
        nofun
      rw [others]
      rfl

/-- The cancelling of entries of one queue, from the head to the tail (R98). -/
theorem State.Engaged.foldl_cancelEntry {Q : Res → Client → Prop} {q : List PoolIx}
    (h : s.Engaged Q) (nodup : q.Nodup) (own : ∀ j ∈ q, j ∈ s.queue r) :
    Cancelled s (q.foldl State.cancelEntry s) r q := by
  induction q generalizing s with
  | nil => exact .refl s r
  | cons i rest ih =>
    obtain ⟨fresh, nodup⟩ := List.nodup_cons.mp nodup
    have hi : i ∈ s.queue r := own i List.mem_cons_self
    have first := h.pool.cancelEntry_cancelled hi
    have after := h.cancelEntry i
    refine first.cons (ih after nodup fun j hj => ?_) fresh fun c hc j hj => ?_
    · obtain ⟨e, he, hr⟩ := h.pool.entry_of_mem (own j (List.mem_cons_of_mem i hj))
      have kept : (s.cancelEntry i).entry j = some e := by
        rw [s.entry_cancelEntry, if_neg fun hji : j = i => fresh (hji ▸ hj), he]
      exact hr ▸ after.pool.mem_of_entry kept
    · refine Bool.eq_false_of_not_eq_true fun ho => fresh ?_
      have hone := h.toWaiters.one c i j hc ho
        (((h.pool.2 r i).mp hi).trans ((h.pool.2 r j).mp (own j (List.mem_cons_of_mem i hj))).symm)
      exact hone ▸ hj

theorem State.Engaged.cancelQueue_cancelled {Q : Res → Client → Prop} (h : s.Engaged Q) (r : Res) :
    Cancelled s (s.cancelQueue r) r (s.queue r) :=
  h.foldl_cancelEntry (h.pool.1 r) fun _ => id

theorem Cancelled.queue_nil (h : Cancelled s t r (s.queue r)) : t.queue r = [] :=
  List.eq_nil_iff_forall_not_mem.mpr fun j hj =>
    have ⟨hmem, hnot⟩ := h.queue j hj
    hnot hmem

/-- The cancelled entries do not depend on the resource's record. -/
theorem Cancelled.after_setRecord {q : List PoolIx} {x : Record}
    (h : Cancelled (s.setRecord r x) t r q) : Cancelled s t r q :=
  ⟨h.entry, h.queue, h.disarmed, h.deadline, h.notices, h.supervisor,
    State.sameElsewhere_trans (s.setRecord_elsewhere r x) h.elsewhere⟩

theorem Cancelled.setRecord {q : List PoolIx} (h : Cancelled s t r q) (x : Record) :
    Cancelled s (t.setRecord r x) r q :=
  ⟨h.entry, h.queue, h.disarmed, h.deadline, h.notices, h.supervisor,
    State.sameElsewhere_trans h.elsewhere (t.setRecord_elsewhere r x)⟩

/-! RETIRE -/

/-- A request that is carried out and answered: its state with the answer stored. -/
theorem State.supervisorRequest_accepted_reply {q : SupervisorRequest} {tag : Byte}
    {params payload : List Byte} {st : Status} {checks : List (Bool × Status)}
    (hq : q.length ≤ 16) (hl : params.length = q.length) (hP : PortFree (q.rule params))
    (hrule : q.rule params s = s.checked checks (t.reply st payload))
    (hf : firstFailing checks = none) :
    s.supervisorRequest q tag params (goodCrc q.code tag params)
      = t.afterStored tag st payload :=
  State.supervisorRequest_accepted hq hl hP hrule hf

/-- A response on a state whose supervisor port is as it was. -/
theorem State.supervisor_afterStored (h : t.supervisor = s.supervisor) (tag : Byte)
    (st : Status) (payload : List Byte) :
    (t.afterStored tag st payload).supervisor = (s.afterStored tag st payload).supervisor := by
  unfold State.afterStored
  rw [h]

/-- The checks of R97 after the number. -/
def State.retireChecks (s : State) (r : Res) : List (Bool × Status) :=
  [((s.record r).state != .offline, .offline), (!(s.record r).retirePending, .retiring)]

/-- What an accepted RETIRE leaves (R97, R98). -/
def State.retired (s : State) (r : Res) : State :=
  if (s.record r).state = .idle then (s.cancelQueue r).goOffline r else s.retireInUse r

theorem State.Engaged.retired_cancelled {Q : Res → Client → Prop} (h : s.Engaged Q) (r : Res) :
    Cancelled s (s.retired r) r (s.queue r) := by
  unfold State.retired
  split
  · exact (h.cancelQueue_cancelled r).setRecord _
  · have marked := h.setRecord (r := r) (x := { s.record r with retirePending := true })
      (fun _ _ _ _ => rfl) (fun hs i e he hr hk => h.steady he hk (hr ▸ hs))
      fun c hc => h.holders hc
    exact (marked.cancelQueue_cancelled r).after_setRecord

theorem State.record_retired (s : State) (r : Res) :
    (s.retired r).record r
      = if (s.record r).state = .idle then Record.cleared
        else { s.record r with retirePending := true } := by
  unfold State.retired State.goOffline State.retireInUse
  split
  · exact State.record_setRecord_self _ r _
  · rw [State.record_cancelQueue, State.record_setRecord_self]

theorem State.nextToken_retired (s : State) (r : Res) : (s.retired r).nextToken = s.nextToken := by
  unfold State.retired
  split
  · exact s.nextToken_cancelQueue r
  · exact State.nextToken_cancelQueue _ r

theorem State.retired_frame (s : State) (r : Res) : LeaseFrame s (s.retired r) := by
  unfold State.retired
  split
  · exact (s.cancelQueue_frame r).trans (State.setRecord_frame _ r _)
  · exact (s.setRecord_frame r _).trans (State.cancelQueue_frame _ r)

theorem retireRule_eq (s : State) (r : Res) :
    retireRequest.rule [numberByte r] s
      = s.checked (s.retireChecks r) ((s.retired r).reply .ok
          [if (s.record r).state = .idle then 0 else 1, countByte (s.queue r).length]) := by
  refine (s.withNumber_numberByte r _).trans ?_
  unfold State.decideRetire State.retired
  dsimp only
  by_cases idle : (s.record r).state = .idle
  · rw [if_pos idle, if_pos idle, if_pos idle]
    rfl
  · rw [if_neg idle, if_neg idle, if_neg idle]
    rfl

theorem execRetire_refused {st : Status} (tag : Byte)
    (h : firstFailing (s.retireChecks r) = some st) :
    exec (.retire tag [numberByte r] (goodCrc 0x42 tag [numberByte r])) s
      = .next (s.afterStored tag st []) :=
  have hP : ∀ params, PortFree (retireRequest.rule params) := portFree_retire
  congrArg Host.Outcome.next
    (State.supervisorRequest_refused (by decide) rfl (hP _) (retireRule_eq s r) h)

theorem execRetire_accepted (tag : Byte) (defined : (s.record r).state ≠ .offline)
    (staying : (s.record r).retirePending = false) :
    exec (.retire tag [numberByte r] (goodCrc 0x42 tag [numberByte r])) s
      = .next ((s.retired r).afterStored tag .ok
          [if (s.record r).state = .idle then 0 else 1, countByte (s.queue r).length]) := by
  have hP : ∀ params, PortFree (retireRequest.rule params) := portFree_retire
  have pass : firstFailing (s.retireChecks r) = none := by
    rw [State.retireChecks, bne_iff_ne.mpr defined, staying]
    rfl
  exact congrArg Host.Outcome.next
    (State.supervisorRequest_accepted_reply (by decide) rfl (hP _) (retireRule_eq s r) pass)

end

/-- Settles O32: the queue is cancelled entry by entry, whatever becomes of the record. -/
theorem retireCancelsEveryWaiter : Obligations.RetireCancelsEveryWaiter := by
  intro s tag n r hrecords hwaiters
  refine ⟨fun hn => ?_, fun offline => ?_, fun defined pending => ?_, fun defined staying => ?_⟩
  · exact congrArg Host.Outcome.next (State.supervisorRequest_replied (q := retireRequest) tag
      (by decide) rfl fun _ _ => State.withNumber_of_le _ hn _)
  · refine execRetire_refused tag ?_
    rw [State.retireChecks, offline]
    rfl
  · refine execRetire_refused tag ?_
    rw [State.retireChecks, bne_iff_ne.mpr defined, pending]
    rfl
  · have h := (State.consistent_iff.mpr ⟨hrecords, hwaiters⟩).engaged.retired_cancelled r
    have frame := s.retired_frame r
    refine ⟨_, execRetire_accepted tag defined staying, s.record_retired r, h.queue_nil,
      fun i hi => ⟨(h.entry i).trans (if_pos hi), h.disarmed i hi⟩, fun c => ?_,
      fun c => h.deadline _ nofun, h.deadline _ nofun, h.deadline _ nofun, h.elsewhere,
      frame.outside, s.nextToken_retired r, frame.cpis, ?_⟩
    · have waits : (s.queue r).any (s.entryOf c) = s.waits r c := List.isSome_find?.symm
      rw [← waits]
      exact h.notices c
    · exact State.supervisor_afterStored h.supervisor tag _ _

end Sys2Proof.Machine
end

section
/-! PROOF. REVOKE with a grace period (R86, R87): the UPGRADE entry at the head is cancelled, then
every holder is warned, and the record is REVOKING under its GRACE deadline. -/

namespace Sys2Proof.Machine

section
variable {s : State} {r : Res} {c : Client}

/-! The warnings -/

/-- The client's notices once it is warned of the revocation of its lease, if it has one. -/
def State.warnedQueue (s : State) (r : Res) (c : Client) : List Notice :=
  match (s.record r).lease c with
  | none => (s.noticeQueue c).queue
  | some l => enqueueNotice r (.revokeWarning l.token) (s.noticeQueue c).queue

theorem State.warnedQueue_of_none (h : (s.record r).lease c = none) :
    s.warnedQueue r c = (s.noticeQueue c).queue := by
  unfold State.warnedQueue
  rw [h]

theorem State.warnedQueue_of_lease {l : Lease} (h : (s.record r).lease c = some l) :
    s.warnedQueue r c = enqueueNotice r (.revokeWarning l.token) (s.noticeQueue c).queue := by
  unfold State.warnedQueue
  rw [h]

/-- A warning touches the notice queues alone. -/
theorem State.warnHolder_eq (s : State) (r : Res) (d : Client) :
    ∃ v, State.warnHolder r s d = { s with notices := v } := by
  unfold State.warnHolder
  split
  · exact ⟨_, rfl⟩
  · exact ⟨s.notices, rfl⟩

theorem State.noticeQueue_warnHolder (s : State) (r : Res) (d c : Client) :
    ((State.warnHolder r s d).noticeQueue c).queue
      = if d = c then s.warnedQueue r c else (s.noticeQueue c).queue := by
  unfold State.warnHolder
  by_cases hd : d = c
  · rw [if_pos hd, hd]
    cases hl : (s.record r).lease c with
    | none => exact (State.warnedQueue_of_none hl).symm
    | some l =>
      rw [State.warnedQueue_of_lease hl]
      exact (s.noticeQueue_notify c c r _).trans (if_pos rfl)
  · rw [if_neg hd]
    cases (s.record r).lease d with
    | none => rfl
    | some l => exact (s.noticeQueue_notify d c r _).trans (if_neg hd)

/-- The warnings touch the notice queues alone, and each client of the list has one. -/
theorem State.warnHolders_eq {l : List Client} (nodup : l.Nodup) (s : State) (r : Res) :
    ∃ v, l.foldl (State.warnHolder r) s = { s with notices := v }
      ∧ ∀ c, (Vec.get v c).queue
        = if c ∈ l then s.warnedQueue r c else (s.noticeQueue c).queue := by
  induction l generalizing s with
  | nil => exact ⟨s.notices, rfl, fun _ => rfl⟩
  | cons d rest ih =>
    obtain ⟨fresh, nodup⟩ := List.nodup_cons.mp nodup
    obtain ⟨v, hv, notices⟩ := ih nodup (State.warnHolder r s d)
    obtain ⟨w, hw⟩ := s.warnHolder_eq r d
    have first := s.noticeQueue_warnHolder r d
    refine ⟨v, by rw [List.foldl_cons, hv, hw], fun c => (notices c).trans ?_⟩
    by_cases hd : d = c
    · subst hd
      rw [if_neg fresh, if_pos List.mem_cons_self, first, if_pos rfl]
    · have kept : (State.warnHolder r s d).warnedQueue r c = s.warnedQueue r c := by
        unfold State.warnedQueue
        rw [first, if_neg hd, (s.warnHolder_sameLeases r d).record]
      have mem : c ∈ d :: rest ↔ c ∈ rest :=
        List.mem_cons.trans (or_iff_right fun e => hd e.symm)
      rw [kept, first, if_neg hd]
      exact if_congr mem.symm rfl rfl

/-- Every holder is warned, and nobody else (R87). -/
theorem State.warnAll_eq (s : State) (r : Res) :
    ∃ v, (s.record r).holders.foldl (State.warnHolder r) s = { s with notices := v }
      ∧ ∀ c, (Vec.get v c).queue = s.warnedQueue r c := by
  obtain ⟨v, hv, notices⟩ := State.warnHolders_eq (s.record r).holders_nodup s r
  refine ⟨v, hv, fun c => (notices c).trans ?_⟩
  by_cases hc : c ∈ (s.record r).holders
  · exact if_pos hc
  · have hl : (s.record r).lease c = none := by
      rw [mem_holders] at hc
      simpa using hc
    rw [if_neg hc, State.warnedQueue_of_none hl]

theorem State.warnAll_elsewhere (s : State) (r : Res) :
    s.sameElsewhere ((s.record r).holders.foldl (State.warnHolder r) s) r := by
  refine List.foldlRecOn (motive := fun u : State => s.sameElsewhere u r) _ _
    (s.sameElsewhere_refl r) fun u hu d _ => State.sameElsewhere_trans hu ?_
  unfold State.warnHolder
  split
  · exact u.notify_elsewhere d r _
  · exact u.sameElsewhere_refl r

/-! The cancelled UPGRADE entry -/

theorem State.deadlineOf_cancelUpgrade {id : DeadlineId} (h : ∀ i, id ≠ .wait i) :
    (s.cancelUpgrade r).deadlineOf id = s.deadlineOf id := by
  unfold State.cancelUpgrade
  split
  · exact State.deadlineOf_cancelEntry (h _)
  · rfl

theorem State.queue_upgradeCancelled (s : State) (r : Res) :
    (s.upgradeCancelled r).queue r = (s.queue r).filter fun i => !s.isUpgrade i :=
  (Vec.get_set _ _ _ _).trans (if_pos rfl)

theorem State.not_armed_upgradeCancelled {i : PoolIx} (hi : i ∈ s.queue r)
    (hu : s.isUpgrade i = true) : (s.upgradeCancelled r).armed (.wait i) = false := by
  refine Bool.eq_false_of_not_eq_true fun h => ?_
  obtain ⟨d, hd, hid⟩ := State.armed_iff_mem.mp h
  exact of_decide_eq_true (List.mem_filter.mp hd).2 i hi hu hid

theorem State.noticeQueue_upgradeCancelled_of_not_holds (hc : s.holds r c = false) :
    (s.upgradeCancelled r).noticeQueue c = s.noticeQueue c :=
  (Vec.get_ofFn _ c).trans (if_neg (by rw [hc]; nofun))

theorem State.warnedQueue_upgradeCancelled_of_none (hl : (s.record r).lease c = none) :
    (s.upgradeCancelled r).warnedQueue r c = (s.noticeQueue c).queue := by
  rw [State.warnedQueue_of_none (s := s.upgradeCancelled r) hl,
    State.noticeQueue_upgradeCancelled_of_not_holds (congrArg Option.isSome hl)]

/-- A holder that waits is told of its entry first, and then warned (R87). -/
theorem State.warnedQueue_upgradeCancelled {l : Lease} (hl : (s.record r).lease c = some l) :
    (s.upgradeCancelled r).warnedQueue r c
      = enqueueNotice r (.revokeWarning l.token)
          (if s.waits r c then enqueueNotice r .claimCancelled (s.noticeQueue c).queue
           else (s.noticeQueue c).queue) := by
  rw [State.warnedQueue_of_lease (s := s.upgradeCancelled r) hl,
    State.noticeQueue_upgradeCancelled (Option.isSome_of_mem hl)]

/-! The revocation -/

/-- The state of a revocation with grace before its deadline is armed: the UPGRADE entry is gone,
the notice queues are `v`, and the record is REVOKING. -/
def State.revokingWith (s : State) (r : Res) (v : Vector NoticeQueue 4) : State :=
  ({ s.upgradeCancelled r with notices := v } : State).setRecord r
    { s.record r with state := .revoking, deadline := .grace }

theorem State.deadlineOf_revokingWith (h : s.Waiters) (v : Vector NoticeQueue 4) {id : DeadlineId}
    (hid : ∀ i, id ≠ .wait i) : (s.revokingWith r v).deadlineOf id = s.deadlineOf id := by
  refine Eq.trans ?_ (State.deadlineOf_cancelUpgrade (r := r) hid)
  rw [State.cancelUpgrade_eq h]
  rfl

/-- A revocation with grace is the cancelled entry, the warnings, the record's state and the armed
deadline (R87). -/
theorem State.revokeWithGrace_eq (h : s.Waiters) (r : Res) :
    ∃ v, s.revokeWithGrace r = (s.revokingWith r v).arm (.grace r) (s.record r).attrs.grace
      ∧ ∀ c, (Vec.get v c).queue = (s.upgradeCancelled r).warnedQueue r c := by
  obtain ⟨v, hv, notices⟩ := (s.upgradeCancelled r).warnAll_eq r
  refine ⟨v, ?_, notices⟩
  unfold State.revokeWithGrace
  dsimp only
  rw [State.cancelUpgrade_eq h, hv]
  rfl

theorem State.revokeWithGrace_elsewhere (h : s.PoolWf) (r : Res) :
    s.sameElsewhere (s.revokeWithGrace r) r :=
  State.sameElsewhere_trans
    (State.sameElsewhere_trans
      (State.sameElsewhere_trans (State.cancelUpgrade_elsewhere h r) (State.warnAll_elsewhere _ r))
      (State.setRecord_elsewhere _ r _))
    (State.arm_elsewhere _ _ (State.awayFrom_grace _ r))

theorem revokeRule_numberByte (s : State) (r : Res) :
    revokeRequest.rule [numberByte r] s = s.decideRevoke r :=
  s.withNumber_numberByte r _

theorem execRevoke_refused {st : Status} (tag : Byte)
    (h : firstFailing (s.revokeChecks r) = some st) :
    exec (.revoke tag [numberByte r] (goodCrc 0x45 tag [numberByte r])) s
      = .next (s.afterStored tag st []) :=
  have hP : ∀ params, PortFree (revokeRequest.rule params) := portFree_revoke
  congrArg Host.Outcome.next
    (State.supervisorRequest_refused (by decide) rfl (hP _) (revokeRule_numberByte s r) h)

theorem execRevoke_withGrace (hs : (s.record r).state = .held)
    (hg : (s.record r).attrs.grace ≠ 0) (tag : Byte) :
    exec (.revoke tag [numberByte r] (goodCrc 0x45 tag [numberByte r])) s
      = .next ((s.revokeWithGrace r).afterStored tag .ok
          [countByte (s.record r).holders.length, revokeFlags false (s.upgradeHead r).isSome]) := by
  have hP : ∀ params, PortFree (revokeRequest.rule params) := portFree_revoke
  have graceful : ((s.record r).attrs.grace == 0) = false := beq_eq_false_iff_ne.mpr hg
  have hrule : revokeRequest.rule [numberByte r] s
      = s.checked (s.revokeChecks r) ((s.revokeWithGrace r).reply .ok
          [countByte (s.record r).holders.length,
            revokeFlags false (s.upgradeHead r).isSome]) := by
    rw [revokeRule_numberByte]
    unfold State.decideRevoke
    dsimp only
    rw [graceful, if_neg nofun]
  have pass : firstFailing (s.revokeChecks r) = none := by
    unfold State.revokeChecks
    dsimp only
    rw [hs]
    rfl
  exact congrArg Host.Outcome.next
    (State.supervisorRequest_accepted_reply (by decide) rfl (hP _) hrule pass)

theorem State.Waiters.revokeFlags_graceful (h : s.Waiters) (r : Res) :
    revokeFlags false (s.upgradeHead r).isSome = if (s.queue r).any s.isUpgrade then 2 else 0 := by
  rw [h.isSome_upgradeHead]
  cases (s.queue r).any s.isUpgrade <;> rfl

end

/-- Settles O35: the holders keep their leases and their HOLD deadlines, for only the UPGRADE
entry's deadline goes and only the GRACE deadline comes. -/
theorem revokeWithGraceWarns : Obligations.RevokeWithGraceWarns := by
  intro s tag n r hrecords hwaiters
  refine ⟨fun hn => ?_, fun st hf => execRevoke_refused tag hf, fun hs hg => ?_⟩
  · exact congrArg Host.Outcome.next (State.supervisorRequest_replied (q := revokeRequest) tag
      (by decide) rfl fun _ _ => State.withNumber_of_le _ hn _)
  · have h := hwaiters.waiters
    have frame := s.revokeWithGrace_frame r
    have elsewhere := State.revokeWithGrace_elsewhere h.pool r
    have hexec := execRevoke_withGrace hs hg tag
    rw [length_holders, h.revokeFlags_graceful] at hexec
    obtain ⟨v, heq, notices⟩ := State.revokeWithGrace_eq h r
    rw [heq] at frame elsewhere hexec
    have armed := (s.revokingWith r v).arm_sameLeases (.grace r) (s.record r).attrs.grace
    have arming := State.arm_eq (s.revokingWith r v) (.grace r) (s.record r).attrs.grace
    refine ⟨_, hexec, ?_, ?_, fun c => ?_, ?_, fun i hi hu => ⟨?_, ?_⟩, fun c => ?_, elsewhere,
      frame.outside, armed.nextToken, frame.cpis, ?_⟩
    · exact (armed.record r).trans (State.record_setRecord_self _ r _)
    · exact State.deadlineOf_arm_self (s.revokingWith r v) (.grace r) hg
    · have kept := State.deadlineOf_arm (s.revokingWith r v) (id := .grace r) (id' := .hold r c)
        (s.record r).attrs.grace nofun
      exact kept.trans (State.deadlineOf_revokingWith h v nofun)
    · exact (armed.queue r).trans (s.queue_upgradeCancelled r)
    · exact (armed.entry i).trans ((s.get_entriesWithoutUpgrade r i).trans (if_pos ⟨hi, hu⟩))
    · exact (State.armed_arm (s.revokingWith r v) (.grace r) (.wait i) _).trans
        ((if_neg nofun).trans (State.not_armed_upgradeCancelled hi hu))
    · rw [arming]
      refine (notices c).trans ?_
      cases hl : (s.record r).lease c with
      | none => exact State.warnedQueue_upgradeCancelled_of_none hl
      | some l => exact State.warnedQueue_upgradeCancelled hl
    · rw [arming]
      exact State.supervisor_afterStored rfl tag _ _

end Sys2Proof.Machine
end

section
/-! PROOF. The moves that notices and involvement are made of (R118, R125, R127): a change of one pair
(resource, client) that is reported, and a notice to a client that holds or waits. Every operation on
leases and wait entries is a run of moves. -/

namespace Sys2Proof.Machine

section
variable {s t u : State} {Q : Res → Client → Prop} {r : Res} {c : Client}

/-! One move -/

/-- Nothing differs that notices and involvement speak of, the port states apart. -/
structure SameTies (s t : State) : Prop where
  holds : ∀ r c, t.holds r c = s.holds r c
  waits : ∀ r c, t.waits r c = s.waits r c
  notices : ∀ c, (t.noticeQueue c).queue = (s.noticeQueue c).queue
  involves : ∀ c r, (t.session c).involves r = (s.session c).involves r

/-- Only the pair may hold or wait differently. -/
structure SameBeside (s t : State) (r : Res) (c : Client) : Prop where
  holds : ∀ k d, ¬(k = r ∧ d = c) → t.holds k d = s.holds k d
  waits : ∀ k d, ¬(k = r ∧ d = c) → t.waits k d = s.waits k d
  notices : t.notices = s.notices
  sessions : t.sessions = s.sessions

/-- One move, where only pairs in `Q` come to hold, to wait or to be told. -/
inductive Move (Q : Res → Client → Prop) : State → State → Prop where
  | same {s t : State} (ties : SameTies s t)
      (ports : ∀ c, (t.session c).port = (s.session c).port) : Move Q s t
  | reported {s u : State} (r : Res) (c : Client) (beside : SameBeside s u r c)
      (bound : u.holds r c = true ∨ u.waits r c = true → Q r c) : Move Q s (u.report r c)
  | told {s : State} (r : Res) (c : Client) (w : ResourceWord)
      (engaged : s.holds r c = true ∨ s.waits r c = true) (bound : Q r c) :
      Move Q s (s.notify c r w)

/-- A run of moves. -/
abbrev Moves (Q : Res → Client → Prop) : State → State → Prop := Relation.ReflTransGen (Move Q)

theorem Move.port (m : Move Q s t) (d : Client) : (t.session d).port = (s.session d).port := by
  cases m with
  | same _ ports => exact ports d
  | reported r c beside _ =>
    obtain ⟨port, -⟩ := (State.report_frame _ r c).sessions d
    refine port.trans ?_
    unfold State.session
    rw [beside.sessions]
  | told => rfl

theorem Moves.port (m : Moves Q s t) (d : Client) : (t.session d).port = (s.session d).port := by
  induction m with
  | refl => rfl
  | tail _ m ih => exact (m.port d).trans ih

/-- An invariant of the moves is one of their runs. -/
theorem Moves.keep {P : State → Prop} (h : ∀ s t, Move Q s t → P s → P t) (m : Moves Q s t)
    (hs : P s) : P t := by
  induction m with
  | refl => exact hs
  | tail _ m ih => exact h _ _ m ih

/-! Who waits -/

theorem State.waits_congr (hq : t.queue r = s.queue r) (he : ∀ i, t.entry i = s.entry i) :
    t.waits r c = s.waits r c := by
  unfold State.waits State.waitOf State.entryOf
  rw [hq]
  simp only [he]

theorem State.PoolWf.waits_iff (h : s.PoolWf) :
    s.waits r c = true ↔ ∃ i e, s.entry i = some e ∧ e.resource = r ∧ e.client = c := by
  rw [← Bool.not_eq_false, h.not_waits_iff]
  push Not
  rfl

/-- A client that holds or waits is in the bound. -/
theorem State.Engaged.bound (h : s.Engaged Q) (hc : s.holds r c = true ∨ s.waits r c = true) :
    Q r c := by
  rcases hc with hh | hw
  · exact h.holders hh
  · obtain ⟨i, e, he, rfl, rfl⟩ := h.pool.waits_iff.mp hw
    exact h.waiters he

/-! Moves that change no pair -/

theorem SameTies.refl (s : State) : SameTies s s :=
  ⟨fun _ _ => rfl, fun _ _ => rfl, fun _ => rfl, fun _ _ => rfl⟩

theorem SameLeases.move (e : SameLeases s t) (notices : t.notices = s.notices)
    (sessions : t.sessions = s.sessions) : Move Q s t := by
  refine .same ⟨e.holds, e.waits, fun c => ?_, fun c r => ?_⟩ fun c => ?_
  · unfold State.noticeQueue
    rw [notices]
  · unfold State.session
    rw [sessions]
  · unfold State.session
    rw [sessions]

theorem SameCore.move (e : SameCore s t) : Move Q s t := e.leases.move e.notices e.sessions

theorem State.disarm_move (s : State) (id : DeadlineId) : Move Q s (s.disarm id) :=
  (s.disarm_sameLeases id).move rfl rfl

theorem State.arm_move (s : State) (id : DeadlineId) (n : Ticks) : Move Q s (s.arm id n) := by
  refine (s.arm_sameLeases id n).move ?_ ?_ <;>
  · rw [State.arm_eq]

theorem State.setRecord_move {x : Record} (h : ∀ c, (x.lease c).isSome = s.holds r c) :
    Move Q s (s.setRecord r x) := by
  refine .same ⟨fun k c => ?_, fun _ _ => rfl, fun _ => rfl, fun _ _ => rfl⟩ fun _ => rfl
  rw [State.holds_setRecord]
  split
  · rename_i hk
    rw [h, hk]
  · rfl

/-- A record without holders is rewritten without leases. -/
theorem State.setVacant_move {x : Record} (hh : (s.record r).holders = []) (hx : x.holders = []) :
    Move Q s (s.setRecord r x) := by
  refine State.setRecord_move fun c => ?_
  rw [State.holds_of_no_holders hh, ← Bool.not_eq_true, ← mem_holders, hx]
  exact List.not_mem_nil

/-! Moves of one pair -/

theorem State.Engaged.vacate_move (h : s.Engaged Q) (r : Res) (c : Client) :
    Move Q s (s.vacate r c) := by
  refine .reported (u := (s.setRecord r ((s.record r).setLease c none)).disarm (.hold r c)) r c
    ⟨fun k d hne => ?_, fun _ _ _ => rfl, rfl, rfl⟩ fun hc => h.bound (hc.imp_left fun hh => ?_)
  · exact (s.holds_vacate r c k d).trans (if_neg hne)
  · exact absurd (((s.holds_vacate r c r c).trans (if_pos ⟨rfl, rfl⟩)).symm.trans hh) nofun

theorem State.Engaged.removeEntry_moves (h : s.Engaged Q) (i : PoolIx) :
    Moves Q s (s.removeEntry i) := by
  cases he : s.entry i with
  | none =>
    unfold State.removeEntry
    rw [he]
  | some e =>
    have left := h.removeEntry i
    have holds : ∀ k d, (s.removeEntry i).holds k d = s.holds k d := fun k d => by
      unfold State.holds
      rw [State.record_removeEntry]
    have waits : ∀ k d, ¬(k = e.resource ∧ d = e.client) →
        (s.removeEntry i).waits k d = s.waits k d := fun k d hne => by
      rw [Bool.eq_iff_iff, left.pool.waits_iff, h.pool.waits_iff]
      refine exists_congr fun j => exists_congr fun f => and_congr_left fun hf => ?_
      rw [State.entry_removeEntry]
      by_cases hj : j = i
      · rw [if_pos hj, hj, he]
        refine iff_of_false nofun fun e' => hne ?_
        obtain rfl := Option.some.inj e'
        exact ⟨hf.1.symm, hf.2.symm⟩
      · rw [if_neg hj]
    rw [State.removeEntry_of_entry he] at holds waits left ⊢
    exact .single (.reported e.resource e.client
      ⟨fun k d _ => holds k d, waits, rfl, rfl⟩ fun hc => left.bound hc)

theorem State.Engaged.allocate_move (h : s.Engaged Q) {i : PoolIx} {e : WaitEntry}
    {q : List PoolIx} (wait : Ticks) (free : s.entry i = none)
    (hq : q.Perm (i :: s.queue e.resource)) (bound : Q e.resource e.client) :
    Move Q s (s.allocate i e q wait) := by
  have pool := h.pool.allocate wait free hq
  have waits : ∀ k d, ¬(k = e.resource ∧ d = e.client) →
      (s.allocate i e q wait).waits k d = s.waits k d := fun k d hne => by
    rw [Bool.eq_iff_iff, pool.waits_iff, h.pool.waits_iff]
    refine exists_congr fun j => exists_congr fun f => and_congr_left fun hf => ?_
    rw [State.entry_allocate]
    by_cases hj : j = i
    · rw [if_pos hj, hj, free]
      refine iff_of_false (fun e' => hne ?_) nofun
      obtain rfl := Option.some.inj e'
      exact ⟨hf.1.symm, hf.2.symm⟩
    · rw [if_neg hj]
  have armed := State.armWait_sameLeases ((s.setEntry i (some e)).setQueue e.resource q) i wait
  refine .reported e.resource e.client ⟨fun k d _ => armed.holds k d, waits, ?_, ?_⟩
    fun _ => bound <;>
  · unfold State.armWait
    split
    · rfl
    · rw [State.arm_eq]
      rfl

theorem State.grant_move (s : State) {r : Res} {c : Client} (m : Mode) (hold : Ticks)
    (bound : Q r c) : Move Q s (s.grant r c m hold) := by
  refine .reported r c ⟨fun k d hne => ?_, fun k d _ => ?_, ?_, ?_⟩ fun _ => bound
  · exact (s.holds_grant r c m hold k d).trans (if_neg hne)
  · exact State.waits_congr (t := s.grant r c m hold) (s.queue_grant r c m hold k)
      (s.grant_entry r c m hold)
  · rw [State.arm_eq, State.takeToken_eq]
    rfl
  · rw [State.arm_eq, State.takeToken_eq]
    rfl

/-! Entries and grants -/

theorem State.Engaged.grantEntry_moves (h : s.Engaged Q) {i : PoolIx} {e : WaitEntry}
    (he : s.entry i = some e) : Moves Q s (s.grantEntry e.resource i e) := by
  have bound : Q e.resource e.client := h.waiters he
  refine ((h.removeEntry_moves i).tail (State.grant_move _ e.kind.mode e.hold bound)).tail
    (.told e.resource e.client _ (.inl ?_) bound)
  rw [State.holds_grant, if_pos ⟨rfl, rfl⟩]

theorem State.Engaged.grantHeads_moves (h : s.Engaged Q) (q : List PoolIx)
    (hq : ∀ i ∈ q, ∀ e ∈ s.entry i, e.resource = r) : Moves Q s (s.grantHeads r q) := by
  induction q generalizing s with
  | nil => exact .refl
  | cons i rest ih =>
    by_cases stops : ∀ e ∈ s.entry i, s.exhausted = true ∨ (s.record r).compatible e = false
    · rw [State.grantHeads_cons_stopped stops]
    · push Not at stops
      obtain ⟨e, he, hx, hc⟩ := stops
      obtain rfl : e.resource = r := hq i List.mem_cons_self e he
      rw [State.grantHeads_cons_granted he (Bool.eq_false_of_not_eq_true hx)
        (Bool.eq_true_of_not_eq_false hc)]
      refine (h.grantEntry_moves he).trans (ih (h.grantEntry he) fun j hj f hf => ?_)
      rw [State.grantEntry_entry] at hf
      exact hq j (List.mem_cons_of_mem _ hj) f (s.removeEntry_entry i j f hf)

theorem State.Engaged.grantRule_moves (h : s.Engaged Q) (r : Res) : Moves Q s (s.grantRule r) := by
  unfold State.grantRule
  split
  · exact h.grantHeads_moves _ (h.pool.resource_of_mem r)
  · exact .refl

theorem State.Engaged.removeUpgrade_moves (h : s.Engaged Q) (r : Res) (c : Client) :
    Moves Q s (s.removeUpgrade r c) := by
  unfold State.removeUpgrade
  split
  · exact h.removeEntry_moves _
  · exact .refl

/-- A waiter is told of its entry's end before the entry goes. -/
theorem State.Engaged.tellRemoved_moves (h : s.Engaged Q) {i : PoolIx} {e : WaitEntry}
    (he : s.entry i = some e) (w : ResourceWord) :
    Moves Q s ((s.notify e.client e.resource w).removeEntry i) :=
  .head (.told e.resource e.client w (.inr (h.pool.waits_iff.mpr ⟨i, e, he, rfl, rfl⟩))
    (h.waiters he)) (((s.notify_sameLeases _ _ _).engaged h).removeEntry_moves i)

theorem State.Engaged.cancelEntry_moves (h : s.Engaged Q) (i : PoolIx) :
    Moves Q s (s.cancelEntry i) := by
  unfold State.cancelEntry
  split
  · rename_i e he
    exact h.tellRemoved_moves he _
  · exact .refl

theorem State.Engaged.cancelQueue_moves (h : s.Engaged Q) (r : Res) :
    Moves Q s (s.cancelQueue r) :=
  (List.foldlRecOn (motive := fun u : State => u.Engaged Q ∧ Moves Q s u) _ _ ⟨h, .refl⟩
    fun _ ⟨hu, m⟩ i _ => ⟨hu.cancelEntry i, m.trans (hu.cancelEntry_moves i)⟩).2

theorem State.Engaged.cancelUpgrade_moves (h : s.Engaged Q) (r : Res) :
    Moves Q s (s.cancelUpgrade r) := by
  unfold State.cancelUpgrade
  split
  · exact h.cancelEntry_moves _
  · exact .refl

/-! The release path -/

theorem State.Engaged.lastHolderLeft_moves (h : s.Engaged Q) (hh : (s.record r).holders = []) :
    Moves Q s (s.lastHolderLeft r) := by
  have ht : SameLeases s (if (s.record r).state = .revoking then s.disarm (.grace r) else s)
      ∧ Moves Q s (if (s.record r).state = .revoking then s.disarm (.grace r) else s) := by
    split
    · exact ⟨s.disarm_sameLeases _, .single (s.disarm_move _)⟩
    · exact ⟨.refl s, .refl⟩
  unfold State.lastHolderLeft
  dsimp only
  generalize (if (s.record r).state = .revoking then s.disarm (.grace r) else s) = u at ht ⊢
  obtain ⟨same, moves⟩ := ht
  have hu : (u.record r).holders = [] := by rw [same.record, hh]
  refine moves.trans ?_
  split
  · exact (Relation.ReflTransGen.single (State.setVacant_move (x := { s.record r with
      state := .draining, heldMode := none, deadline := .guard }) hu hh)).tail (State.arm_move _ _ _)
  · split
    · exact .single (State.setVacant_move hu Record.cleared_holders)
    · have idle := (same.engaged h).setVacant (r := r)
        (x := { s.record r with state := .idle, heldMode := none, deadline := .absent }) hu hh nofun
      exact .head (State.setVacant_move (x := { s.record r with
        state := .idle, heldMode := none, deadline := .absent }) hu hh) (idle.grantRule_moves r)

theorem State.Engaged.endLease_moves (h : s.Engaged Q) (hw : s.waits r c = false) (quiet : Bool) :
    Moves Q s (s.endLease r c quiet) := by
  have hv := h.vacate hw
  refine .head (h.vacate_move r c) ?_
  by_cases hlast : ((s.record r).setLease c none).holders = []
  · rw [State.endLease_of_last quiet hlast]
    exact hv.lastHolderLeft_moves (by rw [State.record_vacate_self]; exact hlast)
  · rw [State.endLease_of_more quiet hlast]
    split
    · exact hv.grantRule_moves r
    · exact .refl

/-- The client's UPGRADE entry goes and then its lease ends (R35, R42). -/
theorem State.Engaged.leave_moves (h : s.Engaged Q) (hc : s.holds r c = true) :
    Moves Q s ((s.removeUpgrade r c).endLease r c false) :=
  (h.removeUpgrade_moves r c).trans ((h.removeUpgrade r c).endLease_moves
    (h.toWaiters.not_waits_removeUpgrade hc) false)

/-- A holder of a record without UPGRADE entries does not wait on it. -/
theorem State.Engaged.not_waits_of_plain (h : s.Engaged Q)
    (plain : ∀ i ∈ s.queue r, s.isUpgrade i = false) (hc : s.holds r c = true) :
    s.waits r c = false := by
  refine h.pool.not_waits_iff.mpr ?_
  rintro i e he rfl rfl
  exact absurd ((plain i (h.pool.mem_of_entry he)).symm.trans
    (State.isUpgrade_iff.mpr ⟨e, he, (h.kind he).mpr hc⟩)) nofun

theorem State.Engaged.removeHolder_moves (h : s.Engaged Q) (hw : s.waits r c = false) :
    Moves Q s (State.removeHolder r s c) := by
  unfold State.removeHolder
  split
  · rename_i l hl
    have hc : s.holds r c = true := Option.isSome_of_mem hl
    have same := s.notify_sameLeases c r (.leaseRevoked l.token)
    exact .head (.told r c _ (.inl hc) (h.holders hc))
      ((same.engaged h).endLease_moves ((same.waits r c).trans hw) true)
  · exact .refl

/-- The removal of every holder, where none of them waits (R88, R91). -/
theorem State.Engaged.removeHolders_moves (h : s.Engaged Q) (hh : (s.record r).holders ≠ [])
    (plain : ∀ i ∈ s.queue r, s.isUpgrade i = false) : Moves Q s (s.removeHolders r) := by
  have removed : ∀ (u : State) (c : Client) (rest : List Client),
      (u.record r).holders = c :: rest → u.Engaged Q → (∀ i ∈ u.queue r, u.isUpgrade i = false) →
      u.waits r c = false := fun u c rest hu hQ hplain =>
    hQ.not_waits_of_plain hplain (mem_holders.mp (hu ▸ List.mem_cons_self))
  refine State.removeHolders_induct
    (I := fun u => u.Engaged Q ∧ (∀ i ∈ u.queue r, u.isUpgrade i = false) ∧ Moves Q s u)
    (J := Moves Q s) ?_ ?_ hh ⟨h, plain, .refl⟩
  · rintro u c rest hu hrest ⟨hQ, hplain, moves⟩
    have hw := removed u c rest hu hQ hplain
    have run := moves.trans (hQ.removeHolder_moves hw)
    obtain ⟨w, e, -⟩ := State.removeHolder_of_more hu hrest
    have same := u.notify_sameLeases c r w
    rw [e] at run ⊢
    refine ⟨(same.engaged hQ).vacate ((same.waits r c).trans hw), fun i hi => ?_, run⟩
    rw [State.queue_vacate] at hi
    unfold State.isUpgrade
    rw [State.entry_vacate]
    exact hplain i hi
  · rintro u c hu ⟨hQ, hplain, moves⟩
    exact moves.trans (hQ.removeHolder_moves (removed u c [] hu hQ hplain))

/-! The mass release -/

theorem State.Engaged.dropWait_moves (h : s.Engaged Q) (c : Client) (r : Res) :
    Moves Q s (s.dropWait c r) := by
  unfold State.dropWait
  split
  · exact (h.removeEntry_moves _).trans ((h.removeEntry _).grantRule_moves r)
  · exact .refl

theorem State.Engaged.releaseResource_moves (h : s.Engaged Q) (c : Client) (r : Res) :
    Moves Q s (State.releaseResource c s r) := by
  obtain ⟨hd, hw⟩ := h.dropWait c r
  unfold State.releaseResource State.dropLease
  split
  · exact (h.dropWait_moves c r).trans (hd.endLease_moves hw false)
  · exact h.dropWait_moves c r

theorem State.Engaged.releaseResources_moves (h : s.Engaged Q) (c : Client) (l : List Res) :
    Moves Q s (l.foldl (State.releaseResource c) s) :=
  (List.foldlRecOn (motive := fun u : State => u.Engaged Q ∧ Moves Q s u) _ _ ⟨h, .refl⟩
    fun _ ⟨hu, m⟩ r _ => ⟨(hu.releaseResource c r).mono fun _ _ hQ => hQ.1,
      m.trans (hu.releaseResource_moves c r)⟩).2

/-! REVOKE -/

theorem State.warnHolder_moves (s : State) (r : Res) (c : Client) (bound : Q r c) :
    Moves Q s (State.warnHolder r s c) := by
  unfold State.warnHolder
  split
  · rename_i l hl
    exact .single (.told r c _ (.inl (Option.isSome_of_mem hl)) bound)
  · exact .refl

theorem State.Engaged.revokeWithGrace_moves (h : s.Engaged Q) (r : Res) :
    Moves Q s (s.revokeWithGrace r) := by
  have hc := h.cancelUpgrade r
  have warned := List.foldlRecOn (motive := Moves Q s)
    ((s.cancelUpgrade r).record r).holders (State.warnHolder r) (h.cancelUpgrade_moves r)
    fun u m c hmem => m.trans (u.warnHolder_moves r c (hc.holders (mem_holders.mp hmem)))
  unfold State.revokeWithGrace
  dsimp only
  generalize ((s.cancelUpgrade r).record r).holders.foldl (State.warnHolder r)
    (s.cancelUpgrade r) = u at warned ⊢
  exact (warned.tail (State.setRecord_move (x := { u.record r with
    state := .revoking, deadline := .grace }) fun _ => rfl)).tail (State.arm_move _ _ _)

theorem State.Engaged.revokeAtOnce_moves (h : s.Engaged Q) (hh : (s.record r).holders ≠ []) :
    Moves Q s (s.revokeAtOnce r) :=
  ((h.cancelUpgrade_moves r).trans ((h.cancelUpgrade r).removeHolders_moves
    (by rwa [State.record_cancelUpgrade]) (h.cancelUpgrade_plain r))).tail
    (State.raise_sameCore _ _).move

end

end Sys2Proof.Machine
end

section
/-! PROOF. The turns that a step of a consistent state is made of: runs of moves, the opening and the
end of a session, a notice fetched, and the emptying of every table. -/

namespace Sys2Proof.Machine

section
variable {s t u : State} {Q : Res → Client → Prop} {r : Res} {c : Client}

/-! One turn -/

/-- Nobody holds, waits, has a notice or is involved, and every client is DETACHED. -/
structure State.Blank (s : State) : Prop where
  holds : ∀ r c, s.holds r c = false
  waits : ∀ r c, s.waits r c = false
  notices : ∀ c, (s.noticeQueue c).queue = []
  port : ∀ c, (s.session c).port = .detached
  involves : ∀ c r, (s.session c).involves r = false

/-- What a step of a consistent state does to notices and involvement. -/
inductive Turn : State → State → Prop where
  | blank {s t : State} (blank : t.Blank) : Turn s t
  /-- Only pairs that hold or wait already come to hold, to wait or to be told. -/
  | moved {s t : State} (consistent : s.Consistent)
      (moves : ∀ Q, s.Engaged Q → Moves Q s t) : Turn s t
  /-- One more pair comes to hold or to wait (R29). -/
  | claimed {s t : State} (r : Res) (c : Client) (consistent : s.Consistent)
      (attached : s.attached c = true)
      (room : (s.session c).involves r = true ∨ (s.session c).tally < 15)
      (moves : ∀ Q, s.Engaged Q → Q r c → Moves Q s t) : Turn s t
  | opened {s : State} (c : Client) (ttl : Ticks)
      (checks : firstFailing (s.openChecks c ttl) = none) : Turn s (s.openNow c ttl)
  | closed {s : State} (c : Client) (consistent : s.Consistent) :
      Turn s ((s.massRelease c).endSession c .detached)
  | ended {s : State} (c : Client) (n : Notice) (consistent : s.Consistent)
      (ofSession : n.ofSession = true) :
      Turn s (((s.massRelease c).placeSessionNotice c n).endSession c .lapsed)
  | fetched {s : State} (c : Client) (n : Notice) (rest : List Notice)
      (head : (s.noticeQueue c).queue = n :: rest) :
      Turn s ((s.setNoticeQueue c { s.noticeQueue c with queue := rest }).reportRemoved c n)

/-- A run of turns. -/
abbrev Turns : State → State → Prop := Relation.ReflTransGen Turn

/-- One move that changes no pair. -/
theorem State.Consistent.turn (h : s.Consistent) (move : ∀ Q, Move Q s t) : Turns s t :=
  .single (.moved h fun Q _ => .single (move Q))

theorem State.Consistent.moved (h : s.Consistent) (moves : ∀ Q, s.Engaged Q → Moves Q s t) :
    Turns s t := .single (.moved h moves)

/-! The deliveries -/

theorem State.Engaged.holdExpired_moves (h : s.Engaged Q) (r : Res) (c : Client) :
    Moves Q s (s.holdExpired r c) := by
  unfold State.holdExpired
  split
  · rename_i l hl
    have hc : s.holds r c = true := Option.isSome_of_mem hl
    exact .head (.told r c _ (.inl hc) (h.holders hc))
      (((s.notify_sameLeases _ _ _).engaged h).leave_moves hc)
  · exact .refl

theorem State.Engaged.waitExpired_moves (h : s.Engaged Q) (i : PoolIx) :
    Moves Q s (s.waitExpired i) := by
  unfold State.waitExpired
  split
  · rename_i e he
    exact (h.tellRemoved_moves he _).trans
      ((((s.notify_sameLeases _ _ _).engaged h).removeEntry i).grantRule_moves _)
  · exact .refl

theorem State.Engaged.graceExpired_moves (h : s.Engaged Q) (hw : (s.record r).Wf) :
    Moves Q s (s.graceExpired r) := by
  unfold State.graceExpired
  split
  · rename_i hd
    obtain ⟨hheld, hgrace, -⟩ := hw
    have hs : (s.record r).state = .revoking := hgrace.mp hd
    obtain ⟨-, -, revoking⟩ := h.toWaiters.upgrades
    exact (h.removeHolders_moves (hheld.mpr (.inr hs)) (revoking r hs)).tail
      (State.raise_sameCore _ _).move
  · exact .refl

theorem State.Engaged.guardExpired_moves (h : s.Engaged Q) (hw : (s.record r).Wf) :
    Moves Q s (s.guardExpired r) := by
  unfold State.guardExpired
  dsimp only
  split
  · rename_i hd
    obtain ⟨-, -, hguard, -⟩ := id hw
    have hs : (s.record r).state = .draining := hguard.mp hd
    have hh : (s.record r).holders = [] := hw.holders_nil (by simp [hs]) (by simp [hs])
    split
    · exact .single (State.setVacant_move hh Record.cleared_holders)
    · exact .head (State.setVacant_move (x := { s.record r with
          state := .idle, deadline := .absent }) hh hh)
        ((h.setVacant (x := { s.record r with state := .idle, deadline := .absent }) hh hh
          nofun).grantRule_moves r)
  · exact .refl

theorem State.Consistent.deliver_turns (h : s.Consistent) (id : DeadlineId) :
    Turns s (s.deliver id) := by
  cases id with
  | hold r c => exact h.moved fun _ hQ => hQ.holdExpired_moves r c
  | wait i => exact h.moved fun _ hQ => hQ.waitExpired_moves i
  | session c =>
    show Turns s (s.sessionExpired c)
    unfold State.sessionExpired
    split
    · exact .head (.ended c (.sessionLapsed (s.session c).number) h rfl)
        ((h.endWithNotice c _ _).turn fun _ => (State.raise_sameCore _ _).move)
    · exact .refl
  | grace r => exact h.moved fun _ hQ => hQ.graceExpired_moves (h.records r)
  | guard r => exact h.moved fun _ hQ => hQ.guardExpired_moves (h.records r)

/-! Sessions and policies -/

theorem State.keepSession_move (s : State) (c : Client) : Move Q s (s.keepSession c) := by
  obtain ⟨l, hl⟩ := s.keepSession_eq c
  refine (s.keepSession_sameLeases c).move ?_ ?_ <;>
  · rw [hl]

theorem State.setPolicy_move (s : State) (c : Client) (p : Policy) :
    Move Q s (s.setSession c { s.session c with policy := p }) := by
  refine .same ⟨fun _ _ => rfl, fun _ _ => rfl, fun _ => rfl, fun d r => ?_⟩ fun d => ?_
  · rw [State.session_setSession]
    split
    · rename_i hd
      rw [hd]
      rfl
    · rfl
  · rw [State.session_setSession]
    split
    · rename_i hd
      rw [hd]
    · rfl

theorem State.setAttention_move (s : State) (c : Client) (m : BitVec 6) :
    Move Q s (s.setNoticeQueue c { s.noticeQueue c with mask := m }) := by
  refine .same ⟨fun _ _ => rfl, fun _ _ => rfl, fun d => ?_, fun _ _ => rfl⟩ fun _ => rfl
  rw [State.noticeQueue_setNoticeQueue]
  split
  · rename_i hd
    rw [hd]
  · rfl

/-! The requests on resources -/

theorem State.Engaged.claimQueued_moves (h : s.Engaged Q) {m : Mode} (hold wait : Ticks)
    {i : PoolIx} (hh : s.holds r c = false) (hw : s.waits r c = false)
    (free : s.freeIndex = some i) (bound : Q r c) :
    Moves Q s ((s.allocate i { resource := r, client := c, kind := m.waitKind, hold }
      (s.queue r ++ [i]) wait).grantRule r) :=
  .head (h.allocate_move (e := { resource := r, client := c, kind := m.waitKind, hold }) wait
      (State.entry_freeIndex free) (List.perm_append_singleton i _) bound)
    ((h.claimQueued hold wait hh hw free bound).grantRule_moves r)

theorem State.Engaged.upgradeQueued_moves (h : s.Engaged Q) (hold wait : Ticks) {i : PoolIx}
    (checks : firstFailing (s.upgradeChecks c r) = none) (free : s.freeIndex = some i) :
    Moves Q s ((s.allocate i { resource := r, client := c, kind := .upgrade, hold }
      (i :: s.queue r) wait).grantRule r) := by
  obtain ⟨hh, -⟩ := State.upgradeChecks_plain checks
  have bound : Q r c := h.holders hh
  exact .head (h.allocate_move (e := { resource := r, client := c, kind := .upgrade, hold }) wait
      (State.entry_freeIndex free) (List.Perm.refl _) bound)
    ((h.upgradeQueued hold wait checks free bound).grantRule_moves r)

theorem State.downgradeChecks_steady (checks : firstFailing (s.downgradeChecks c r) = none) :
    (s.record r).state ≠ .revoking := by
  have h := firstFailing_eq_none.mp checks ((s.record r).state != .revoking, .revoking)
    (by simp [State.downgradeChecks])
  simpa using h

theorem State.Engaged.downgraded_moves (h : s.Engaged Q)
    (steady : (s.record r).state ≠ .revoking) :
    Moves Q s
      (((s.setRecord r { s.record r with heldMode := some .shared }).report r c).grantRule r) := by
  have lowered := h.setFields (r := r) (x := { s.record r with heldMode := some .shared })
    (fun _ => rfl) steady
  exact .head (State.setRecord_move (x := { s.record r with heldMode := some .shared })
      fun _ => rfl)
    (.head (.reported r c ⟨fun _ _ _ => rfl, fun _ _ _ => rfl, rfl, rfl⟩ lowered.bound)
      (((State.report_sameLeases _ r c).engaged lowered).grantRule_moves r))

theorem State.Engaged.retired_moves (h : s.Engaged Q) (hh : (s.record r).holders = []) :
    Moves Q s ((s.cancelQueue r).goOffline r) :=
  (h.cancelQueue_moves r).tail (State.setVacant_move (by rw [State.record_cancelQueue, hh])
    Record.cleared_holders)

theorem State.Engaged.retireInUse_moves (h : s.Engaged Q) (r : Res) :
    Moves Q s (s.retireInUse r) := by
  have marked := h.setRecord (r := r) (x := { s.record r with retirePending := true })
    (fun _ _ _ _ => rfl) (fun hs i e he hr hk => h.steady he hk (hr ▸ hs))
    fun c hc => h.holders hc
  exact .head (State.setRecord_move (x := { s.record r with retirePending := true })
    fun _ => rfl) (marked.cancelQueue_moves r)

/-- The checks of a claim that the leases and the tally rest on (TABLE 2-3). -/
theorem State.claimChecks_room {m : Mode} (checks : firstFailing (s.claimChecks c r m) = none) :
    s.holds r c = false ∧ ((s.session c).involves r = true ∨ (s.session c).tally < 15) := by
  have pass := firstFailing_eq_none.mp checks
  have held := pass (!s.holds r c, .alreadyHeld) (by simp [State.claimChecks])
  have quota := pass ((s.session c).involves r || decide ((s.session c).tally < 15), .quota)
    (by simp [State.claimChecks])
  simpa using And.intro held quota

/-! Every table emptied -/

theorem State.waits_of_queue_nil (h : s.queue r = []) (c : Client) : s.waits r c = false := by
  unfold State.waits State.waitOf
  rw [h]
  rfl

theorem SameCore.blank (h : SameCore State.reset t) : t.Blank := by
  have session : ∀ c, t.session c = Session.reset := fun c => by
    unfold State.session
    rw [h.sessions]
    exact Vec.get_replicate _ c
  refine ⟨fun r c => ?_, fun r => State.waits_of_queue_nil ?_, fun c => ?_, fun c => ?_,
    fun c r => ?_⟩
  · rw [h.leases.holds]
    exact State.holds_of_no_holders (by rw [State.reset_record]; exact Record.cleared_holders) c
  · rw [h.leases.queue, State.reset_queue]
  · unfold State.noticeQueue
    rw [h.notices]
    exact congrArg NoticeQueue.queue (Vec.get_replicate _ c)
  · rw [session]
    rfl
  · rw [session]
    exact Vec.get_replicate _ r

theorem Record.atRest_lease (x : Record) (c : Client) : x.atRest.lease c = none := by
  unfold Record.atRest
  split <;> exact Vec.get_replicate _ c

theorem State.clearAllNow_blank (s : State) : s.clearAllNow.Blank := by
  have session : ∀ c, s.clearAllNow.session c = (s.session c).atRest := fun c =>
    Vec.get_map Session.atRest s.sessions c
  refine ⟨fun r c => ?_, fun r => State.waits_of_queue_nil (Vec.get_replicate _ r), fun c => ?_,
    fun c => ?_, fun c r => ?_⟩
  · have record : s.clearAllNow.record r = (s.record r).atRest := Vec.get_map _ _ r
    unfold State.holds
    rw [record, Record.atRest_lease]
    rfl
  · exact congrArg NoticeQueue.queue (Vec.get_map NoticeQueue.atRest s.notices c)
  · rw [session]
    rfl
  · rw [session]
    exact Vec.get_replicate _ r

/-! The events -/

theorem Event.turns (e : Event s t) (h : s.Consistent) : Turns s t := by
  cases e with
  | outside same => exact h.turn fun _ => same.move
  | deviceReset same => exact .single (.blank same.blank)
  | clearAll => exact .single (.blank s.clearAllNow_blank)
  | tick =>
    exact (State.tick_keeps (P := fun u => u.Consistent ∧ Turns s u)
      (fun u t ⟨hu, run⟩ => ⟨(u.setClock_sameLeases t).consistent
        (fun _ => ⟨rfl, rfl, rfl, rfl⟩) hu,
        run.trans (hu.turn fun _ => (u.setClock_sameLeases t).move rfl rfl)⟩)
      (fun u d rest _ ⟨hu, run⟩ => by
        have same := u.setDeadlines_sameLeases rest
        have taken := same.consistent (u.setDeadlines_frame rest).sessions hu
        exact ⟨taken.deliver d.id,
          (run.trans (hu.turn fun _ => same.move rfl rfl)).trans (taken.deliver_turns d.id)⟩)
      ⟨h, .refl⟩).2
  | expiry id _ =>
    exact (h.turn fun _ => s.disarm_move id).trans ((h.disarm id).deliver_turns id)
  | kept c => exact h.turn fun _ => s.keepSession_move c
  | opened c ttl checks => exact .single (.opened c ttl checks)
  | closed c _ =>
    exact (h.turn fun _ => s.disarm_move (.session c)).tail (.closed c (h.disarm _))
  | evicted c _ =>
    exact (h.turn fun _ => s.disarm_move (.session c)).tail (.ended c _ (h.disarm _) rfl)
  | policySet c p => exact h.turn fun _ => s.setPolicy_move c p
  | fetched c n rest head => exact .single (.fetched c n rest head)
  | attentionSet c m _ => exact h.turn fun _ => s.setAttention_move c m
  | claimed c r m hold attached checks _ =>
    exact .single (.claimed r c h attached (State.claimChecks_room checks).2
      fun _ _ bound => .single (s.grant_move m hold bound))
  | claimQueued c r m hold wait i attached checks _ _ free =>
    obtain ⟨-, -, hw, -⟩ := State.claimChecks_open checks
    obtain ⟨hh, room⟩ := State.claimChecks_room checks
    exact .single (.claimed r c h attached room
      fun _ hQ bound => hQ.claimQueued_moves hold wait hh hw free bound)
  | upgraded c r hold _ checks _ =>
    obtain ⟨hh, -⟩ := State.upgradeChecks_plain checks
    exact h.moved fun _ hQ => .single (s.grant_move .exclusive hold (hQ.holders hh))
  | upgradeQueued c r hold wait i _ checks _ _ free =>
    exact h.moved fun _ hQ => hQ.upgradeQueued_moves hold wait checks free
  | renewed c r hold _ _ _ => exact h.turn fun _ => s.arm_move _ _
  | released c r _ holds => exact h.moved fun _ hQ => hQ.leave_moves holds
  | downgraded c r _ checks =>
    exact h.moved fun _ hQ => hQ.downgraded_moves (State.downgradeChecks_steady checks)
  | withdrawn c r i _ _ =>
    exact h.moved fun _ hQ => (hQ.removeEntry_moves i).trans ((hQ.removeEntry i).grantRule_moves r)
  | defined r a offline =>
    have hc : s.record r = Record.cleared := (h.records r).eq_cleared offline
    exact h.turn fun _ => State.setVacant_move (by rw [hc]; exact Record.cleared_holders)
      Record.cleared_holders
  | amended r a _ _ _ => exact h.turn fun _ => State.setRecord_move fun _ => rfl
  | revoked r _ _ => exact h.moved fun _ hQ => hQ.revokeWithGrace_moves r
  | revokedAtOnce r held _ =>
    exact h.moved fun _ hQ => hQ.revokeAtOnce_moves ((h.records r).1.mpr (.inl held))
  | retired r idle _ =>
    exact h.moved fun _ hQ => hQ.retired_moves
      ((h.records r).holders_nil (by simp [idle]) (by simp [idle]))
  | retiring r _ _ _ => exact h.moved fun _ hQ => hQ.retireInUse_moves r

/-- Every step of a consistent state is a run of turns. -/
theorem State.Consistent.step_turns (h : s.Consistent) (hstep : step s = .next t) : Turns s t :=
  (step_keeps (P := fun u => u.Consistent ∧ Turns s u)
    (fun u v e ⟨hu, run⟩ => ⟨e.keeps_consistent u v hu, run.trans (e.turns hu)⟩) hstep
    ⟨h, .refl⟩).2

/-- An invariant of the turns is one of their runs. -/
theorem Turns.keep {P : State → Prop} (h : ∀ s t, Turn s t → P s → P t) (run : Turns s t)
    (hs : P s) : P t := by
  induction run with
  | refl => exact hs
  | tail _ e ih => exact h _ _ e ih

end

end Sys2Proof.Machine
end

section
/-! PROOF. Each notice queue holds at most one notice per resource and what its port state allows
(R105, R124): only ATTACHED clients hold or wait, so only they are told, and the end of a session
discards the queue. -/

namespace Sys2Proof.Machine

/-! A notice that joins a queue -/

/-- The notice at the head of a queue is replaced, or the search goes on (R125). -/
theorem enqueueNotice_resource (r k : Res) (w w' : ResourceWord) (j : Byte) (rest : List Notice) :
    enqueueNotice r w (.resource k w' j :: rest)
      = if k = r then .resource r w (saturatingSucc j) :: rest
        else .resource k w' j :: enqueueNotice r w rest := rfl

/-- A notice about a resource takes the place of the one before it, or joins the tail (R125). -/
theorem resources_enqueueNotice (r : Res) (w : ResourceWord) (q : List Notice) :
    (enqueueNotice r w q).filterMap Notice.resource?
      = if r ∈ q.filterMap Notice.resource? then q.filterMap Notice.resource?
        else q.filterMap Notice.resource? ++ [r] := by
  induction q with
  | nil => rfl
  | cons n rest ih =>
    cases n with
    | resource k w' j =>
      rw [enqueueNotice_resource]
      by_cases hk : k = r
      · simp [hk, Notice.resource?]
      · simp only [if_neg hk, List.filterMap_cons, Notice.resource?, ih, List.mem_cons,
          Ne.symm hk, false_or]
        split <;> rfl
    | sessionLapsed j => exact ih
    | sessionEvicted j => exact ih

theorem nodup_resources_enqueueNotice {q : List Notice}
    (h : (q.filterMap Notice.resource?).Nodup) (r : Res) (w : ResourceWord) :
    ((enqueueNotice r w q).filterMap Notice.resource?).Nodup := by
  rw [resources_enqueueNotice]
  split
  · exact h
  · rename_i hr
    exact List.nodup_append_comm.mp (List.nodup_cons.mpr ⟨hr, h⟩)

/-- A resource notice brings no session notice. -/
theorem all_resource_enqueueNotice {q : List Notice}
    (h : (q.all fun n => !n.ofSession) = true) (r : Res) (w : ResourceWord) :
    ((enqueueNotice r w q).all fun n => !n.ofSession) = true := by
  induction q with
  | nil => rfl
  | cons n rest ih =>
    rw [List.all_cons, Bool.and_eq_true] at h
    obtain ⟨hn, hrest⟩ := h
    cases n with
    | resource k w' j =>
      rw [enqueueNotice_resource]
      split
      · exact hrest
      · exact ih hrest
    | sessionLapsed j => cases hn
    | sessionEvicted j => cases hn

section
variable {s t u : State} {Q : Res → Client → Prop} {r : Res} {c : Client}

/-! Moves -/

theorem State.NoticesWf.congr (h : s.NoticesWf)
    (notices : ∀ c, (t.noticeQueue c).queue = (s.noticeQueue c).queue)
    (ports : ∀ c, (t.session c).port = (s.session c).port) : t.NoticesWf := fun c => by
  rw [notices, ports]
  exact h c

theorem State.NoticesWf.notify (h : s.NoticesWf) (ha : s.attached c = true) (r : Res)
    (w : ResourceWord) : (s.notify c r w).NoticesWf := by
  intro d
  have queue := s.noticeQueue_notify c d r w
  obtain ⟨unique, admitted⟩ := h d
  by_cases hd : c = d
  · subst hd
    have port : (s.session c).port = .attached := eq_of_beq ha
    rw [queue, if_pos rfl]
    rw [port] at admitted
    refine ⟨nodup_resources_enqueueNotice unique r w, ?_⟩
    have session : (s.notify c r w).session c = s.session c := rfl
    rw [session, port]
    exact all_resource_enqueueNotice admitted r w
  · rw [queue, if_neg hd]
    exact ⟨unique, admitted⟩

/-- A move tells ATTACHED clients alone. -/
theorem Move.noticesWf (m : Move Q s t) (hQ : ∀ r c, Q r c → s.attached c = true)
    (h : s.NoticesWf) : t.NoticesWf := by
  have ports := m.port
  cases m with
  | same ties _ => exact h.congr ties.notices ports
  | reported r c beside _ =>
    exact h.congr (fun d => congrArg (fun v => (Vec.get v d).queue) beside.notices) ports
  | told r c w _ bound => exact h.notify (hQ r c bound) r w

theorem Moves.noticesWf (m : Moves Q s t) (hQ : ∀ r c, Q r c → s.attached c = true)
    (h : s.NoticesWf) : t.NoticesWf :=
  (m.keep (P := fun u => (∀ r c, Q r c → u.attached c = true) ∧ u.NoticesWf)
    (fun u v m ⟨hu, hn⟩ => ⟨fun r c hc => by
      unfold State.attached at hu ⊢
      rw [m.port]
      exact hu r c hc, m.noticesWf hu hn⟩) ⟨hQ, h⟩).2

/-! Sessions -/

/-- A client that may open a session has no notice unread (R108, R124). -/
theorem State.NoticesWf.queue_of_openChecks (h : s.NoticesWf) {ttl : Ticks}
    (checks : firstFailing (s.openChecks c ttl) = none) : (s.noticeQueue c).queue = [] := by
  have pass := firstFailing_eq_none.mp checks
  have detached := pass (!s.attached c, .alreadyOpen) (by simp [State.openChecks])
  have read := pass (!s.lapseUnread c, .lapseUnread) (by simp [State.openChecks])
  obtain ⟨-, admitted⟩ := h c
  cases hp : (s.session c).port with
  | detached =>
    rw [hp] at admitted
    exact List.isEmpty_iff.mp admitted
  | attached => simp [State.attached, hp] at detached
  | lapsed =>
    rw [hp] at admitted
    obtain ⟨sessions, -⟩ := Bool.and_eq_true_iff.mp admitted
    cases hq : (s.noticeQueue c).queue with
    | nil => rfl
    | cons n rest =>
      rw [hq] at sessions
      have first : n.ofSession = true := List.all_eq_true.mp sessions n List.mem_cons_self
      simp [State.lapseUnread, hp, hq, first] at read

theorem State.queue_openNow (s : State) (c : Client) (ttl : Ticks) (d : Client) :
    ((s.openNow c ttl).noticeQueue d).queue = (s.noticeQueue d).queue := by
  have arming : ∀ u : State, u.noticeQueue = s.noticeQueue →
      ((u.setNoticeQueue c { u.noticeQueue c with mask := allKinds }).noticeQueue d).queue
        = (s.noticeQueue d).queue := by
    intro u hu
    rw [State.noticeQueue_setNoticeQueue, hu]
    split
    · rename_i hd
      rw [hd]
    · rfl
  unfold State.openNow
  dsimp only
  refine arming _ ?_
  split
  · rw [State.arm_eq]
    rfl
  · rfl

theorem State.NoticesWf.openNow (h : s.NoticesWf) {ttl : Ticks}
    (checks : firstFailing (s.openChecks c ttl) = none) : (s.openNow c ttl).NoticesWf := by
  intro d
  rw [State.queue_openNow, State.session_openNow]
  split
  · rename_i hd
    rw [hd, h.queue_of_openChecks checks]
    exact ⟨List.nodup_nil, rfl⟩
  · exact h d

/-- Discarding the notices touches no other queue and leaves none in this one (R127). -/
theorem State.noticeQueue_discardNotices (s : State) (c : Client) (d : Client) :
    (s.discardNotices c).noticeQueue d
      = if d = c then { s.noticeQueue c with queue := [] } else s.noticeQueue d := by
  refine Eq.trans ?_ (s.noticeQueue_setNoticeQueue c _ d)
  exact List.foldlRecOn (motive := fun t : State => t.noticeQueue d
    = (s.setNoticeQueue c { s.noticeQueue c with queue := [] }).noticeQueue d) _ _ rfl
    fun t h n _ => by cases n <;> exact h

theorem State.queue_massRelease (s : State) (c : Client) :
    ((s.massRelease c).noticeQueue c).queue = [] := by
  unfold State.massRelease
  rw [State.noticeQueue_discardNotices, if_pos rfl]

/-- After the mass release every queue but the client's own is as its port state allows. -/
theorem State.NoticesWf.massRelease_others (h : s.NoticesWf) (hs : s.Consistent) {d : Client}
    (hd : d ≠ c) :
    (((s.massRelease c).noticeQueue d).queue.filterMap Notice.resource?).Nodup
      ∧ ((s.massRelease c).session d).port.admits ((s.massRelease c).noticeQueue d).queue
        = true := by
  have released := (hs.engaged.releaseResources_moves c allResources).noticesWf (fun _ _ => id) h
  obtain ⟨port, -⟩ := (State.discardNotices_frame
    (allResources.foldl (State.releaseResource c) s) c).sessions d
  unfold State.massRelease
  rw [State.noticeQueue_discardNotices, if_neg hd, port]
  exact released d

/-- A session ends in a port state that allows what is put in its queue. -/
theorem State.NoticesWf.endSession (h : s.NoticesWf) (hs : s.Consistent) {ended : PortState}
    (others : ∀ d, d ≠ c → t.noticeQueue d = (s.massRelease c).noticeQueue d)
    (sessions : t.sessions = (s.massRelease c).sessions)
    (unique : ((t.noticeQueue c).queue.filterMap Notice.resource?).Nodup)
    (admitted : ended.admits (t.noticeQueue c).queue = true) : (t.endSession c ended).NoticesWf := by
  intro d
  have queue : (t.endSession c ended).noticeQueue d = t.noticeQueue d := rfl
  have session : (t.endSession c ended).session d
      = if d = c then { t.session c with port := ended, ttl := 0 } else t.session d :=
    t.session_setSession c _ d
  rw [queue, session]
  by_cases hd : d = c
  · rw [if_pos hd, hd]
    exact ⟨unique, admitted⟩
  · have same : t.session d = (s.massRelease c).session d := by
      unfold State.session
      rw [sessions]
    rw [if_neg hd, others d hd, same]
    exact h.massRelease_others hs hd

theorem State.NoticesWf.closed (h : s.NoticesWf) (hs : s.Consistent) (c : Client) :
    ((s.massRelease c).endSession c .detached).NoticesWf := by
  have queue := s.queue_massRelease c
  refine h.endSession hs (fun _ _ => rfl) rfl ?_ ?_
  · rw [queue]
    exact List.nodup_nil
  · rw [queue]
    rfl

theorem State.NoticesWf.ended (h : s.NoticesWf) (hs : s.Consistent) (c : Client) {n : Notice}
    (hn : n.ofSession = true) :
    (((s.massRelease c).placeSessionNotice c n).endSession c .lapsed).NoticesWf := by
  have queue : (((s.massRelease c).placeSessionNotice c n).noticeQueue c).queue = [n] :=
    congrArg NoticeQueue.queue (State.noticeQueue_setNoticeQueue_self _ c _)
  refine h.endSession hs
    (fun d hd => (State.noticeQueue_setNoticeQueue _ c _ d).trans (if_neg hd))
    (State.setNoticeQueue_sessions _ c _) ?_ ?_
  · rw [queue]
    cases n with
    | resource k w j => cases hn
    | sessionLapsed j => exact List.nodup_nil
    | sessionEvicted j => exact List.nodup_nil
  · rw [queue]
    unfold PortState.admits
    simp [hn]

/-- What a queue may hold, its tail may hold. -/
theorem PortState.admits_tail {st : PortState} {n : Notice} {rest : List Notice}
    (h : st.admits (n :: rest) = true) : st.admits rest = true := by
  cases st with
  | detached => cases h
  | attached => exact (Bool.and_eq_true_iff.mp h).2
  | lapsed =>
    obtain ⟨-, length⟩ := Bool.and_eq_true_iff.mp h
    have nil : rest = [] := by simpa using length
    rw [nil]
    rfl

theorem State.NoticesWf.fetched (h : s.NoticesWf) {n : Notice} {rest : List Notice}
    (head : (s.noticeQueue c).queue = n :: rest) :
    ((s.setNoticeQueue c { s.noticeQueue c with queue := rest }).reportRemoved c n).NoticesWf := by
  have taken : (s.setNoticeQueue c { s.noticeQueue c with queue := rest }).NoticesWf := by
    intro d
    rw [State.noticeQueue_setNoticeQueue, State.session_setNoticeQueue]
    split
    · rename_i hd
      obtain ⟨unique, admitted⟩ := h d
      rw [hd, head] at unique admitted
      rw [hd]
      exact ⟨unique.sublist ((List.sublist_cons_self n rest).filterMap _),
        PortState.admits_tail admitted⟩
    · exact h d
  refine taken.congr (fun d => ?_) fun d => ?_
  · cases n <;> rfl
  · obtain ⟨port, -⟩ := (State.reportRemoved_frame
      (s.setNoticeQueue c { s.noticeQueue c with queue := rest }) c n).sessions d
    exact port

/-! Turns -/

theorem Turn.keeps_noticesWf (s t : State) (turn : Turn s t) (h : s.NoticesWf) :
    t.NoticesWf := by
  cases turn with
  | blank blank =>
    intro c
    rw [blank.notices, blank.port]
    exact ⟨List.nodup_nil, rfl⟩
  | moved consistent moves => exact (moves _ consistent.engaged).noticesWf (fun _ _ => id) h
  | claimed r c consistent attached _ moves =>
    exact (moves _ consistent.engaged attached).noticesWf (fun _ _ => id) h
  | opened c ttl checks => exact h.openNow checks
  | closed c consistent => exact h.closed consistent c
  | ended c n consistent ofSession => exact h.ended consistent c ofSession
  | fetched c n rest head => exact h.fetched head

end

/-- Settles O59: every turn keeps the queues, so every step of a consistent state does. -/
theorem noticesFollowTheSession : Obligations.NoticesFollowTheSession := by
  intro s t hrecords hwaiters hnotices hstep
  have consistent : s.Consistent := State.consistent_iff.mpr ⟨hrecords, hwaiters⟩
  exact (consistent.step_turns hstep).keep Turn.keeps_noticesWf hnotices

end Sys2Proof.Machine
end

section
/-! PROOF. The involvement sets are exact and no tally exceeds 15 (R118): a change of a pair is reported,
a client is told only of what it holds or waits on, and one claim adds one resource at most. -/

namespace Sys2Proof.Machine

section
variable {s t u : State} {Q : Res → Client → Prop} {r : Res} {c : Client}

/-! What concerns a client -/

theorem State.concerns_iff :
    s.concerns r c = true
      ↔ s.holds r c = true ∨ s.waits r c = true ∨ s.unread r c = true := by
  unfold State.concerns
  rw [Bool.or_eq_true, Bool.or_eq_true, or_assoc]

theorem State.concerns_of_engaged (h : s.holds r c = true ∨ s.waits r c = true) :
    s.concerns r c = true := h.elim State.concerns_of_holds State.concerns_of_waits

/-- Who is concerned follows from the leases, the waits and the notices. -/
theorem State.concerns_congr (holds : t.holds r c = s.holds r c)
    (waits : t.waits r c = s.waits r c)
    (notices : (t.noticeQueue c).queue = (s.noticeQueue c).queue) :
    t.concerns r c = s.concerns r c := by
  unfold State.concerns State.unread
  rw [holds, waits, notices]

theorem SameTies.concerns (h : SameTies s t) (r : Res) (c : Client) :
    t.concerns r c = s.concerns r c := State.concerns_congr (h.holds r c) (h.waits r c) (h.notices c)

theorem SameBeside.concerns (h : SameBeside s t r c) {k : Res} {d : Client}
    (hne : ¬(k = r ∧ d = c)) : t.concerns k d = s.concerns k d :=
  State.concerns_congr (h.holds k d hne) (h.waits k d hne)
    (congrArg (fun v => (Vec.get v d).queue) h.notices)

/-- A notice about one resource is about no other. -/
theorem State.unread_notify_other (s : State) {c d : Client} {r k : Res} (w : ResourceWord)
    (hne : ¬(k = r ∧ d = c)) : (s.notify c r w).unread k d = s.unread k d := by
  rw [State.unread_eq, State.unread_eq, State.noticeQueue_notify]
  split
  · rename_i hd
    have hk : k ≠ r := fun e => hne ⟨e, hd.symm⟩
    have about : ∀ q : List Notice,
        (q.filter fun n => !n.about r).filter (Notice.about k) = q.filter (Notice.about k) := by
      intro q
      rw [List.filter_filter]
      refine List.filter_congr fun n _ => ?_
      cases n with
      | resource k' w' j => by_cases hn : k' = k <;> simp [Notice.about, hn, hk]
      | sessionLapsed j => rfl
      | sessionEvicted j => rfl
    rw [← about, filter_enqueueNotice, about]
  · rfl

/-- A client that holds or waits is concerned already when it is told (R118). -/
theorem State.concerns_notify (s : State) {c : Client} {r : Res} (w : ResourceWord)
    (h : s.holds r c = true ∨ s.waits r c = true) (k : Res) (d : Client) :
    (s.notify c r w).concerns k d = s.concerns k d := by
  by_cases hpair : k = r ∧ d = c
  · obtain ⟨rfl, rfl⟩ := hpair
    exact (State.concerns_of_engaged (s := s.notify d k w) h).trans (State.concerns_of_engaged h).symm
  · unfold State.concerns
    rw [s.unread_notify_other w hpair]
    rfl

/-! The involvement sets -/

theorem State.InvolvementWf.congr (h : s.InvolvementWf)
    (involves : ∀ c r, (t.session c).involves r = (s.session c).involves r)
    (concerns : ∀ r c, t.concerns r c = s.concerns r c) : t.InvolvementWf := fun c r => by
  rw [involves, concerns]
  exact h c r

/-- The report of the one pair that changed makes the sets exact again (R118). -/
theorem State.InvolvementWf.report (h : s.InvolvementWf) (sessions : u.sessions = s.sessions)
    (beside : ∀ k d, ¬(k = r ∧ d = c) → u.concerns k d = s.concerns k d) :
    (u.report r c).InvolvementWf := by
  intro d k
  have session : u.session d = s.session d := congrArg (fun v => Vec.get v d) sessions
  have involves : ((u.report r c).session d).involves k
      = if k = r ∧ d = c then u.concerns r c else (s.session d).involves k := by
    unfold State.report
    rw [State.session_setSession]
    by_cases hd : d = c
    · subst hd
      rw [if_pos rfl, Session.involves_setInvolves, session]
      by_cases hk : k = r <;> simp [hk]
    · rw [if_neg hd, if_neg fun e => hd e.2, session]
  rw [involves]
  split
  · rename_i hpair
    rw [hpair.1, hpair.2]
    rfl
  · rename_i hne
    exact (h d k).trans (beside k d hne).symm

theorem Move.involvementWf (m : Move Q s t) (h : s.InvolvementWf) : t.InvolvementWf := by
  cases m with
  | same ties _ => exact h.congr ties.involves ties.concerns
  | reported r c beside _ => exact h.report beside.sessions fun k d => beside.concerns
  | told r c w engaged _ => exact h.congr (fun _ _ => rfl) (s.concerns_notify w engaged)

/-- A move concerns no client anew outside the bound. -/
theorem Move.concerns (m : Move Q s t) {k : Res} {d : Client} (h : t.concerns k d = true) :
    s.concerns k d = true ∨ Q k d := by
  cases m with
  | same ties _ => exact .inl ((ties.concerns k d).symm.trans h)
  | reported r c beside bound =>
    have h : State.concerns _ k d = true := h
    by_cases hpair : k = r ∧ d = c
    · obtain ⟨rfl, rfl⟩ := hpair
      rcases State.concerns_iff.mp h with hh | hw | hn
      · exact .inr (bound (.inl hh))
      · exact .inr (bound (.inr hw))
      · refine .inl (State.concerns_of_unread ?_)
        refine Eq.trans ?_ hn
        exact congrArg (fun v => (Vec.get v d).queue.any (Notice.about k)) beside.notices.symm
    · exact .inl ((beside.concerns hpair).symm.trans h)
  | told r c w engaged _ => exact .inl ((s.concerns_notify w engaged k d).symm.trans h)

theorem Moves.involvementWf (m : Moves Q s t) (h : s.InvolvementWf) : t.InvolvementWf :=
  m.keep (fun _ _ => Move.involvementWf) h

theorem Moves.concerns (m : Moves Q s t) {k : Res} {d : Client} (h : t.concerns k d = true) :
    s.concerns k d = true ∨ Q k d := by
  induction m with
  | refl => exact .inl h
  | tail _ m ih => exact (m.concerns h).elim ih .inr

/-! The tally -/

/-- A predicate that one more element meets counts that element more at most. -/
theorem countP_le_add_count {α : Type} [BEq α] [LawfulBEq α] {p q : α → Bool} {a : α}
    (h : ∀ b, q b = true → p b = true ∨ b = a) (l : List α) :
    l.countP q ≤ l.countP p + l.count a := by
  induction l with
  | nil => exact Nat.le_refl 0
  | cons b rest ih =>
    rw [List.countP_cons, List.countP_cons, List.count_cons]
    by_cases hq : q b = true
    · rcases h b hq with hp | rfl
      · simp only [hq, hp, if_true]
        omega
      · simp only [hq, beq_self_eq_true, if_true]
        omega
    · rw [if_neg hq]
      omega

/-- A tally grows by one resource at most, and only where the resource was not in the set. -/
theorem Session.tally_le {x y : Session} {r : Res} {n : Nat}
    (h : ∀ k, y.involves k = true → x.involves k = true ∨ k = r)
    (room : x.involves r = true ∧ x.tally ≤ n ∨ x.tally < n) : y.tally ≤ n := by
  rcases room with ⟨hr, hx⟩ | hx
  · exact le_trans (List.countP_mono_left fun k _ hk => (h k hk).elim id fun e => e ▸ hr) hx
  · have grown := countP_le_add_count h allResources
    have one : allResources.count r ≤ 1 :=
      List.nodup_iff_count_le_one.mp (List.nodup_finRange 64) r
    unfold Session.tally at hx ⊢
    omega

/-- Exact involvement sets and no tally above 15. -/
structure State.Tallied (s : State) : Prop where
  involvement : s.InvolvementWf
  tally : s.TallyWf

/-- Where no client is concerned anew no tally grows. -/
theorem State.Tallied.shrink (h : s.Tallied) (involvement : t.InvolvementWf)
    (concerns : ∀ k d, t.concerns k d = true → s.concerns k d = true) : t.Tallied := by
  refine ⟨involvement, fun d => le_trans (List.countP_mono_left fun k _ hk => ?_) (h.tally d)⟩
  rw [h.involvement]
  rw [involvement] at hk
  exact concerns k d hk

/-- The pairs that are concerned bound those that hold or wait. -/
theorem State.Consistent.engaged_concerns (h : s.Consistent) :
    s.Engaged fun r c => s.concerns r c = true :=
  h.engaged.toWaiters.engaged (fun _ _ hh => State.concerns_of_holds hh) fun i e he =>
    State.concerns_of_waits (h.engaged.pool.waits_iff.mpr ⟨i, e, he, rfl, rfl⟩)

/-- A claim adds one resource to one tally that has room for it (R29). -/
theorem State.Tallied.claimed (h : s.Tallied) (hs : s.Consistent)
    (room : (s.session c).involves r = true ∨ (s.session c).tally < 15)
    (moves : ∀ Q, s.Engaged Q → Q r c → Moves Q s t) : t.Tallied := by
  have run := moves (fun k d => s.concerns k d = true ∨ k = r ∧ d = c)
    (hs.engaged_concerns.mono fun _ _ => .inl) (.inr ⟨rfl, rfl⟩)
  have involvement := run.involvementWf h.involvement
  have grows : ∀ d k, (t.session d).involves k = true →
      (s.session d).involves k = true ∨ k = r ∧ d = c := fun d k hk => by
    rw [h.involvement]
    rw [involvement] at hk
    exact (run.concerns hk).elim .inl id
  refine ⟨involvement, fun d => ?_⟩
  by_cases hd : d = c
  · subst hd
    exact Session.tally_le (fun k hk => (grows d k hk).imp_right And.left)
      (room.imp_left fun hr => ⟨hr, h.tally d⟩)
  · exact le_trans (List.countP_mono_left fun k _ hk =>
      (grows d k hk).resolve_right fun e => hd e.2) (h.tally d)

/-! Sessions -/

theorem State.Tallied.fetched (h : s.Tallied) {n : Notice} {rest : List Notice}
    (head : (s.noticeQueue c).queue = n :: rest) :
    ((s.setNoticeQueue c { s.noticeQueue c with queue := rest }).reportRemoved c n).Tallied := by
  have unread : ∀ k d,
      s.unread k d
        = ((s.setNoticeQueue c { s.noticeQueue c with queue := rest }).unread k d
            || (decide (d = c) && n.about k)) := fun k d => by
    unfold State.unread
    rw [State.noticeQueue_setNoticeQueue]
    split
    · rename_i hd
      rw [hd, head, List.any_cons, decide_eq_true rfl, Bool.true_and, Bool.or_comm]
    · rename_i hd
      rw [decide_eq_false hd, Bool.false_and, Bool.or_false]
  have beside : ∀ k d, (decide (d = c) && n.about k) = false →
      (s.setNoticeQueue c { s.noticeQueue c with queue := rest }).concerns k d
        = s.concerns k d := fun k d hn => by
    unfold State.concerns
    rw [unread k d, hn, Bool.or_false]
    rfl
  have fewer : ∀ k d,
      (s.setNoticeQueue c { s.noticeQueue c with queue := rest }).concerns k d = true →
        s.concerns k d = true := fun k d hk => by
    rcases State.concerns_iff.mp hk with hh | hw | hu
    · exact State.concerns_of_holds hh
    · exact State.concerns_of_waits hw
    · exact State.concerns_of_unread (by rw [unread, hu, Bool.true_or])
  cases n with
  | resource r w j =>
    refine h.shrink (h.involvement.report rfl fun k d hne => beside k d ?_) fewer
    by_cases hd : d = c
    · have hk : ¬r = k := fun e => hne ⟨e.symm, hd⟩
      simp [Notice.about, hk]
    · rw [decide_eq_false hd, Bool.false_and]
  | sessionLapsed j =>
    exact h.shrink (h.involvement.congr (fun _ _ => rfl) fun k d => beside k d (Bool.and_false _))
      fewer
  | sessionEvicted j =>
    exact h.shrink (h.involvement.congr (fun _ _ => rfl) fun k d => beside k d (Bool.and_false _))
      fewer

/-- After the mass release nothing concerns the client, and no other is concerned anew (R111). -/
theorem State.Tallied.massRelease (h : s.Tallied) (hs : s.Consistent) (c : Client) :
    (s.massRelease c).Tallied := by
  obtain ⟨released, none⟩ := State.massRelease_released hs.engaged_concerns (h.involvement c)
  have run := hs.engaged_concerns.releaseResources_moves c allResources
  have own := State.discardNotices_own (allResources.foldl (State.releaseResource c) s) c
  have gone : ∀ k, (s.massRelease c).concerns k c = false := fun k => by
    have waits : (s.massRelease c).waits k c = false :=
      State.not_waits_iff.mpr fun i _ => released.entries i
    unfold State.concerns State.unread
    rw [released.holds, waits, State.queue_massRelease]
    rfl
  have others : ∀ k d, d ≠ c → (s.massRelease c).concerns k d
      = (allResources.foldl (State.releaseResource c) s).concerns k d := fun k d hd =>
    State.concerns_congr (own.leases.holds k d) (own.leases.waits k d)
      (congrArg NoticeQueue.queue (own.notices d hd))
  refine h.shrink (fun d k => ?_) fun k d hk => ?_
  · by_cases hd : d = c
    · rw [hd, none, gone]
    · rw [others k d hd, ← run.involvementWf h.involvement d k]
      exact congrArg (fun x : Session => x.involves k) (own.sessions d hd)
  · have hd : d ≠ c := by
      rintro rfl
      rw [gone] at hk
      cases hk
    exact (run.concerns ((others k d hd).symm.trans hk)).elim id id

theorem State.Tallied.follow (h : s.Tallied) (ties : SameTies s t) : t.Tallied :=
  h.shrink (h.involvement.congr ties.involves ties.concerns)
    fun k d hk => (ties.concerns k d).symm.trans hk

theorem State.openNow_ties (s : State) (c : Client) (ttl : Ticks) : SameTies s (s.openNow c ttl) := by
  have same := s.openNow_sameLeases c ttl
  refine ⟨same.holds, same.waits, s.queue_openNow c ttl, fun d r => ?_⟩
  rw [State.session_openNow]
  split
  · rename_i hd
    rw [hd]
    rfl
  · rfl

theorem State.endSession_ties (s : State) (c : Client) (ended : PortState) :
    SameTies s (s.endSession c ended) := by
  refine ⟨fun _ _ => rfl, fun _ _ => rfl, fun _ => rfl, fun d r => ?_⟩
  have session : (s.endSession c ended).session d
      = if d = c then { s.session c with port := ended, ttl := 0 } else s.session d :=
    s.session_setSession c _ d
  rw [session]
  split
  · rename_i hd
    rw [hd]
    rfl
  · rfl

/-- A session notice in the place of no notice concerns nobody. -/
theorem State.Tallied.placeSessionNotice (h : s.Tallied) {n : Notice} (hn : n.ofSession = true)
    (empty : (s.noticeQueue c).queue = []) : (s.placeSessionNotice c n).Tallied := by
  have concerns : ∀ k d, (s.placeSessionNotice c n).concerns k d = s.concerns k d := fun k d => by
    have unread : (s.placeSessionNotice c n).unread k d = s.unread k d := by
      unfold State.unread State.placeSessionNotice
      rw [State.noticeQueue_setNoticeQueue]
      split
      · rename_i hd
        rw [hd, empty]
        cases n with
        | resource r w j => cases hn
        | sessionLapsed j => rfl
        | sessionEvicted j => rfl
      · rfl
    unfold State.concerns
    rw [unread]
    rfl
  exact h.shrink (h.involvement.congr (fun _ _ => rfl) concerns)
    fun k d hk => (concerns k d).symm.trans hk

/-! Turns -/

theorem State.Blank.tallied (h : s.Blank) : s.Tallied := by
  refine ⟨fun c r => ?_, fun c => ?_⟩
  · unfold State.concerns State.unread
    rw [h.involves, h.holds, h.waits, h.notices]
    rfl
  · have none : (s.session c).tally = 0 := List.countP_eq_zero.mpr fun r _ => by
      rw [h.involves]
      nofun
    omega

theorem Turn.keeps_tallied (s t : State) (turn : Turn s t) (h : s.Tallied) : t.Tallied := by
  cases turn with
  | blank blank => exact blank.tallied
  | moved consistent moves =>
    have run := moves _ consistent.engaged_concerns
    exact h.shrink (run.involvementWf h.involvement) fun k d hk => (run.concerns hk).elim id id
  | claimed r c consistent _ room moves => exact h.claimed consistent room moves
  | opened c ttl _ => exact h.follow (s.openNow_ties c ttl)
  | closed c consistent =>
    exact (h.massRelease consistent c).follow (State.endSession_ties _ c _)
  | ended c n consistent ofSession =>
    exact ((h.massRelease consistent c).placeSessionNotice ofSession
      (s.queue_massRelease c)).follow (State.endSession_ties _ c _)
  | fetched c n rest head => exact h.fetched head

end

/-- Settles O60: every turn keeps the sets exact and the tallies low, so every step of a consistent
state does. -/
theorem tallyNeverExceedsFifteen : Obligations.TallyNeverExceedsFifteen := by
  intro s t hrecords hwaiters hinvolved htally hstep
  have consistent : s.Consistent := State.consistent_iff.mpr ⟨hrecords, hwaiters⟩
  obtain ⟨involvement, tally⟩ :=
    (consistent.step_turns hstep).keep Turn.keeps_tallied ⟨hinvolved, htally⟩
  exact ⟨involvement, tally⟩

end Sys2Proof.Machine
end

section
/-! PROOF. A disabled port (R106), the implicit keepalive and KEEPALIVE (R107, R110), and OPEN (R108,
R109). -/

namespace Sys2Proof.Machine

/-! A disabled port -/

/-- The requests of the client catalogue that a disabled port refuses. -/
theorem clientCatalogue_refused {q : ClientRequest} (hq : q ∈ clientCatalogue)
    (hstatus : q.code ≠ 0x01) (hfetch : q.code ≠ 0x20) : q.whenDisabled = false := by
  have listed : ∀ q ∈ clientCatalogue, q.code = 0x01 ∨ q.code = 0x20 ∨ q.whenDisabled = false := by
    decide
  exact ((listed q hq).resolve_left hstatus).resolve_left hfetch

/-- Every client request but STATUS and FETCH leaves the ports alone. -/
theorem clientCatalogue_portFree {q : ClientRequest} (hq : q ∈ clientCatalogue)
    (hstatus : q.code ≠ 0x01) (hfetch : q.code ≠ 0x20) (p : Client) {params : List Byte}
    (hl : params.length = q.length) (hr : q.inRange params = true) :
    PortFree (q.rule p params) := by
  by_cases hopen : q.code = 0x02
  · simp only [clientCatalogue, List.mem_cons, List.not_mem_nil, or_false] at hq
    rcases hq with rfl | rfl | rfl | rfl | rfl | rfl | rfl | rfl | rfl | rfl | rfl | rfl | rfl
    · exact absurd hopen (by decide)
    · exact portFree_open p params
    all_goals exact absurd hopen (by decide)
  · exact (clientCatalogue_sessionRequest hq hstatus hopen hfetch p hl hr).portFree

/-- Settles O9: admission stands before the owner's rule and before the implicit keepalive. -/
theorem disabledPortRefusesTheOthers : Obligations.DisabledPortRefusesTheOthers := by
  intro s p tag params between fresh disabled row hrow hstatus hfetch hl hr
  obtain ⟨q, hq⟩ := clientRow_runs hrow
  have hlq : params.length = q.length := hl.trans hq.length.symm
  have hrq : q.inRange params = true := hq.inRange params hl hr
  have hmax : q.length ≤ 16 := hq.length ▸ clientRow_length_le row hrow
  rw [← hq.code] at hstatus hfetch
  have hP := clientCatalogue_portFree hq.mem hstatus hfetch p hlq hrq
  have refused : s.decideRequest p q params = s.answer .portDisabled := by
    unfold State.decideRequest
    rw [disabled, clientCatalogue_refused hq.mem hstatus hfetch]
    rfl
  rw [hq.exec, ← hq.code, State.clientRequest_executed between q tag params hmax hlq hrq fresh hP,
    refused]
  rfl

/-! The implicit keepalive and KEEPALIVE -/

section
variable {s : State} {p : Client}

/-- The implicit keepalive of an ATTACHED client, field by field (R107). -/
theorem State.keepSession_of_attached (h : s.attached p = true) :
    s.keepSession p
      = { s with
          deadlines :=
            if (s.session p).ttl = 0 then s.deadlines
            else armedList s.clock (.session p) (s.session p).ttl s.deadlines } := by
  unfold State.keepSession
  by_cases httl : (s.session p).ttl = 0
  · rw [if_neg fun e => e.2 httl, if_pos httl]
  · rw [if_pos ⟨h, httl⟩, if_neg httl, State.arm_eq]

end

/-- Settles O14. -/
theorem keepaliveRenewsTheSession : Obligations.KeepaliveRenewsTheSession := by
  intro s p tag
  refine ⟨State.keepSession_of_attached, State.keepSession_of_not_attached, fun reach ha => ?_⟩
  have hP : PortFree (keepaliveRequest.rule p []) := portFree_keepalive p []
  have hrule : keepaliveRequest.rule p [] (s.keepSession p)
      = (s.keepSession p).reply .ok (bytesOf 2 (s.session p).ttl) := by
    refine (if_pos ((s.attached_keepSession p p).trans ha)).trans ?_
    obtain ⟨l, hl⟩ := s.keepSession_eq p
    rw [hl]
    rfl
  exact congrArg Host.Outcome.next
    (State.clientRequest_decided reach (by decide) rfl rfl hP hrule)

/-! OPEN -/

section
variable {s : State} {p : Client} {ttl : Ticks}

/-- The session that OPEN starts, field by field (R109). -/
theorem State.openNow_eq (s : State) (p : Client) (ttl : Ticks) :
    s.openNow p ttl
      = { s with
          sessions := Vec.set s.sessions p
            { s.session p with
              port := .attached
              number :=
                if (s.session p).number = 65535 then 1 else (s.session p).number + 1
              ttl }
          deadlines :=
            if ttl = 0 then s.deadlines else armedList s.clock (.session p) ttl s.deadlines
          notices := Vec.set s.notices p { s.noticeQueue p with mask := 0b111111 } } := by
  unfold State.openNow
  dsimp only
  by_cases httl : ttl = 0
  · rw [if_neg fun h => h httl, if_pos httl]
    rfl
  · rw [if_pos httl, if_neg httl, State.arm_eq]
    rfl

/-- The checks of OPEN in the statement's terms, on the state after the implicit keepalive. -/
theorem State.openChecks_keepSession (s : State) (p : Client) (ttl : Ticks) :
    (s.keepSession p).openChecks p ttl
      = [ (s.attached p == false, .alreadyOpen),
          (!((s.session p).port == .lapsed && (s.noticeQueue p).queue.any Notice.ofSession),
            .lapseUnread),
          (decide (ttl ≤ (s.session p).policy.maxTtl), .ttlRefused),
          (ttl != 0 || (s.session p).policy.unwatched, .ttlRefused) ] := by
  obtain ⟨l, hl⟩ := s.keepSession_eq p
  rw [hl]
  have detached : (s.attached p == false) = !s.attached p := by cases s.attached p <;> rfl
  rw [detached]
  rfl

end

/-- Settles O12: the checks of TABLE 6-3 stand on the state after the implicit keepalive, and a client
that passes the first of them is not ATTACHED, so it brings none. -/
theorem openStartsASession : Obligations.OpenStartsASession := by
  intro s p tag t1 t0 reach
  have hP : PortFree (openRequest.rule p [t1, t0]) := portFree_open p [t1, t0]
  have hrule : openRequest.rule p [t1, t0] (s.keepSession p)
      = (s.keepSession p).decideOpen p (half t1 t0) := rfl
  unfold State.decideOpen at hrule
  rw [State.openChecks_keepSession] at hrule
  split <;> rename_i hf
  · exact congrArg Host.Outcome.next
      (State.clientRequest_refused reach (by decide) rfl rfl hP hrule hf)
  · have detached : s.attached p = false := by
      simpa using firstFailing_eq_none.mp hf (s.attached p == false, .alreadyOpen)
        List.mem_cons_self
    have opened := State.clientRequest_accepted reach (by decide) rfl rfl hP hrule hf
    rw [State.keepSession_of_not_attached detached] at opened
    refine (congrArg Host.Outcome.next opened).trans ?_
    rw [← State.openNow_eq]
    rfl

end Sys2Proof.Machine
end

section
/-! PROOF. The sources an ending session raises: none but TOKENS_OUT, by the grants that its leases and
entries make room for (R21, R111). -/

namespace Sys2Proof.Machine

section
variable {s t u : State}

/-- No event source but TOKENS_OUT has come or gone. -/
def OtherSourcesKept (s t : State) : Prop :=
  ∀ k, k ≠ EventSource.tokensOut.bit →
    t.supervisor.events.getLsbD k = s.supervisor.events.getLsbD k

theorem OtherSourcesKept.of_supervisor (h : t.supervisor = s.supervisor) : OtherSourcesKept s t :=
  fun k _ => congrArg (fun x : Supervisor => x.events.getLsbD k) h

theorem OtherSourcesKept.refl (s : State) : OtherSourcesKept s s := .of_supervisor rfl

theorem OtherSourcesKept.trans (h : OtherSourcesKept s t) (k : OtherSourcesKept t u) :
    OtherSourcesKept s u := fun b hb => (k b hb).trans (h b hb)

theorem OtherSourcesKept.foldl {α : Type} {f : State → α → State}
    (h : ∀ t a, OtherSourcesKept t (f t a)) (l : List α) (s : State) :
    OtherSourcesKept s (l.foldl f s) :=
  List.foldlRecOn (motive := OtherSourcesKept s) l f (.refl s) fun t ht a _ => ht.trans (h t a)

theorem Supervisor.afterToken_getLsbD (x : Supervisor) (t : Token) {k : Nat}
    (hk : k ≠ EventSource.tokensOut.bit) :
    (x.afterToken t).events.getLsbD k = x.events.getLsbD k := by
  unfold Supervisor.afterToken
  split
  · have hk : ¬10 = k := fun e => hk e.symm
    simp [BitVec.getLsbD_twoPow, hk]
  · rfl

variable (s)

theorem State.grant_sources (r : Res) (c : Client) (m : Mode) (hold : Ticks) :
    OtherSourcesKept s (s.grant r c m hold) := fun k hk => by
  rw [State.grant_eq]
  exact s.supervisor.afterToken_getLsbD s.nextToken hk

theorem State.supervisor_removeEntry (i : PoolIx) :
    (s.removeEntry i).supervisor = s.supervisor := by
  unfold State.removeEntry
  split <;> rfl

theorem State.grantEntry_sources (r : Res) (i : PoolIx) (e : WaitEntry) :
    OtherSourcesKept s (s.grantEntry r i e) :=
  (OtherSourcesKept.of_supervisor (s.supervisor_removeEntry i)).trans
    ((State.grant_sources _ r e.client e.kind.mode e.hold).trans (.of_supervisor rfl))

theorem State.grantRule_sources (r : Res) : OtherSourcesKept s (s.grantRule r) := by
  unfold State.grantRule
  split
  · exact State.grantHeads_keeps (P := OtherSourcesKept s)
      (fun t i e _ _ _ h => h.trans (t.grantEntry_sources r i e)) _ (.refl s)
  · exact .refl s

theorem State.lastHolderLeft_sources (r : Res) : OtherSourcesKept s (s.lastHolderLeft r) := by
  unfold State.lastHolderLeft
  dsimp only
  have ht : OtherSourcesKept s
      (if (s.record r).state = .revoking then s.disarm (.grace r) else s) := by
    split
    · exact .of_supervisor rfl
    · exact .refl s
  refine ht.trans ?_
  generalize (if (s.record r).state = .revoking then s.disarm (.grace r) else s) = t
  split
  · rw [State.arm_eq]
    exact .of_supervisor rfl
  · split
    · exact .of_supervisor rfl
    · exact .trans (.of_supervisor rfl) (State.grantRule_sources _ r)

theorem State.endLease_sources (r : Res) (c : Client) (quiet : Bool) :
    OtherSourcesKept s (s.endLease r c quiet) := by
  have vacated : OtherSourcesKept s (s.vacate r c) := .of_supervisor rfl
  rw [State.endLease_eq]
  split
  · exact vacated.trans (State.lastHolderLeft_sources _ r)
  · split
    · exact vacated.trans (State.grantRule_sources _ r)
    · exact vacated

theorem State.releaseResource_sources (c : Client) (r : Res) :
    OtherSourcesKept s (State.releaseResource c s r) := by
  have waits : OtherSourcesKept s (s.dropWait c r) := by
    unfold State.dropWait
    split
    · exact .trans (.of_supervisor (s.supervisor_removeEntry _)) (State.grantRule_sources _ r)
    · exact .refl s
  unfold State.releaseResource State.dropLease
  split
  · exact waits.trans (State.endLease_sources _ r c false)
  · exact waits

theorem State.discardNotices_sources (c : Client) : OtherSourcesKept s (s.discardNotices c) :=
  .trans (.of_supervisor rfl) (.foldl (f := fun t n => t.reportRemoved c n)
    (fun t n => .of_supervisor (by cases n <;> rfl)) _ _)

theorem State.massRelease_sources (c : Client) : OtherSourcesKept s (s.massRelease c) :=
  (OtherSourcesKept.foldl (fun t r => t.releaseResource_sources c r) allResources s).trans
    (State.discardNotices_sources _ c)

end

end Sys2Proof.Machine
end

section
/-! PROOF. The requests that end a session (R111, R112, R115, R116): CLOSE, EVICT and SET POLICY. -/

namespace Sys2Proof.Machine

section
variable {s t : State} {c : Client}

/-! A session that ends -/

/-- What the end of the client's session leaves, in the statements' terms. -/
structure SessionEnded (s t : State) (c : Client) (ended : PortState) : Prop where
  gone : s.sessionGone t c
  port : (t.session c).port = ended
  number : (t.session c).number = (s.session c).number
  policy : (t.session c).policy = (s.session c).policy
  others : s.othersKeep t c
  untouched : s.othersUntouched t c
  outside : s.sameOutside t
  cpis : t.cpis = s.cpis
  framing : t.supervisor.framing = s.supervisor.framing
  stored : t.supervisor.stored = s.supervisor.stored

theorem Released.sessionEnded (h : Released (s.disarm (.session c)) t c)
    (hi : ∀ r, (t.session c).involves r = false) (ended : PortState) :
    SessionEnded s (t.endSession c ended) c ended := by
  obtain ⟨gone, others, untouched⟩ := h.endSession hi ended
  have frame := (s.disarm_frame (.session c)).trans h.frame
  obtain ⟨-, number, -, policy⟩ := frame.sessions c
  have session : (t.endSession c ended).session c = { t.session c with port := ended, ttl := 0 } :=
    t.session_setSession_self c _
  exact ⟨gone, congrArg Session.port session, (congrArg Session.number session).trans number,
    (congrArg Session.policy session).trans policy, others, untouched,
    State.sameOutside_endSession frame.outside c ended, frame.cpis, frame.framing, frame.stored⟩

/-- The SESSION deadline goes, and the mass release leaves the client nothing. -/
theorem State.massRelease_ending (hrecords : s.RecordsWf) (hwaiters : s.WaitersWf)
    (hinvolved : s.InvolvementWf) (c : Client) :
    Released (s.disarm (.session c)) ((s.disarm (.session c)).massRelease c) c
      ∧ ∀ r, (((s.disarm (.session c)).massRelease c).session c).involves r = false := by
  have consistent : (s.disarm (.session c)).Consistent :=
    (State.consistent_iff.mpr ⟨hrecords, hwaiters⟩).disarm _
  exact State.massRelease_released consistent.engaged (hinvolved c)

/-! CLOSE (R112) -/

theorem State.disarm_keepSession (s : State) (p : Client) :
    (s.keepSession p).disarm (.session p) = s.disarm (.session p) := by
  unfold State.keepSession
  split
  · rename_i h
    have rearmed : withoutDeadline (.session p)
          (armedList s.clock (.session p) (s.session p).ttl s.deadlines)
        = withoutDeadline (.session p) s.deadlines :=
      filter_armedList fun d hd => by simp [hd]
    unfold State.disarm
    rw [State.arm_eq]
    exact congrArg s.setDeadlines rearmed
  · rfl

theorem State.closeNow_keepSession (s : State) (p : Client) :
    (s.keepSession p).closeNow p = s.closeNow p := by
  unfold State.closeNow
  rw [State.disarm_keepSession]

theorem State.closeNow_ended (hrecords : s.RecordsWf) (hwaiters : s.WaitersWf)
    (hinvolved : s.InvolvementWf) (c : Client) : SessionEnded s (s.closeNow c) c .detached := by
  obtain ⟨released, involves⟩ := State.massRelease_ending hrecords hwaiters hinvolved c
  exact released.sessionEnded involves .detached

theorem State.queue_closeNow (s : State) (c : Client) :
    ((s.closeNow c).noticeQueue c).queue = [] := by
  have queue := (s.disarm (.session c)).queue_massRelease c
  unfold State.closeNow
  generalize (s.disarm (.session c)).massRelease c = t at queue ⊢
  exact queue

theorem State.attention_of_no_notice (h : (s.noticeQueue c).queue = []) :
    s.attention c = false := by
  unfold State.attention NoticeQueue.attention
  rw [h]
  rfl

end

/-- Settles O13: the keepalive that CLOSE brings goes with the deadline that it arms, and the mass
release leaves the client nothing. -/
theorem closeEndsTheSession : Obligations.CloseEndsTheSession := by
  intro s p tag hrecords hwaiters hinvolved reach ha
  have hP : PortFree (closeRequest.rule p []) := portFree_close p []
  have hrule : closeRequest.rule p [] (s.keepSession p)
      = (s.closeNow p).reply .ok [countByte (s.leaseCount p)] := by
    refine (if_pos ((s.attached_keepSession p p).trans ha)).trans ?_
    rw [State.closeNow_keepSession]
    obtain ⟨l, hl⟩ := s.keepSession_eq p
    rw [hl]
    rfl
  have run := State.clientRequest_decided reach (by decide) rfl rfl hP hrule
  have ended := State.closeNow_ended hrecords hwaiters hinvolved p
  have queue := s.queue_closeNow p
  generalize s.closeNow p = t at run ended queue
  refine ⟨_, congrArg Host.Outcome.next run, ended.gone, ended.port, ended.number, ended.policy, queue,
    State.attention_of_no_notice queue, ended.others, ended.untouched, ended.outside,
    ended.stored, ended.framing, ?_⟩
  unfold State.afterReply State.cpi
  rw [← ended.cpis]
  rfl

/-! EVICT (R115) -/

section
variable {s t : State} {c : Client}

theorem State.evictNow_ended (hrecords : s.RecordsWf) (hwaiters : s.WaitersWf)
    (hinvolved : s.InvolvementWf) (c : Client) : SessionEnded s (s.evictNow c) c .lapsed := by
  obtain ⟨released, involves⟩ := State.massRelease_ending hrecords hwaiters hinvolved c
  unfold State.evictNow
  generalize (s.disarm (.session c)).massRelease c = t at released involves ⊢
  have told := released.follow (t.setNoticeQueue_own c _)
    (t.placeSessionNotice_frame c (.sessionEvicted (s.session c).number))
  exact told.sessionEnded involves .lapsed

theorem State.queue_evictNow (s : State) (c : Client) :
    ((s.evictNow c).noticeQueue c).queue = [.sessionEvicted (s.session c).number] := by
  unfold State.evictNow
  generalize (s.disarm (.session c)).massRelease c = t
  exact congrArg NoticeQueue.queue (t.noticeQueue_setNoticeQueue_self c _)

/-- A session notice asserts its client's line under every mask (R134). -/
theorem State.attention_of_sessionEvicted {k : BitVec 16}
    (h : (s.noticeQueue c).queue = [.sessionEvicted k]) : s.attention c = true := by
  unfold State.attention NoticeQueue.attention
  rw [h]
  rfl

theorem State.evictNow_sources (s : State) (c : Client) : OtherSourcesKept s (s.evictNow c) := by
  have released : OtherSourcesKept s ((s.disarm (.session c)).massRelease c) :=
    .trans (.of_supervisor rfl) ((s.disarm (.session c)).massRelease_sources c)
  unfold State.evictNow
  generalize (s.disarm (.session c)).massRelease c = t at released ⊢
  exact released.trans (.of_supervisor rfl)

theorem evictRule_numberByte (s : State) (c : Client) :
    evictRule [numberByte c] s
      = s.checked [(s.attached c, .notAttached)]
          ((s.evictNow c).reply .ok [countByte (s.leaseCount c)]) :=
  s.withClient_numberByte c _

end

/-- Settles O40: the notice is placed after the mass release, so it is the only one. -/
theorem evictEndsTheSession : Obligations.EvictEndsTheSession := by
  intro s tag n c
  have hP : ∀ n, PortFree (evictRequest.rule [n]) := fun n => portFree_evict [n]
  have hrule : evictRequest.rule [numberByte c] s = _ := evictRule_numberByte s c
  refine ⟨fun hn => ?_, fun ha => ?_, fun ha hrecords hwaiters hinvolved => ?_⟩
  · exact congrArg Host.Outcome.next
      (State.supervisorRequest_replied tag (by decide) rfl fun g y =>
        State.withClient_of_le _ hn _)
  · exact congrArg Host.Outcome.next (State.supervisorRequest_refused (st := .notAttached)
      (by decide) rfl (hP _) hrule (by rw [ha]; rfl))
  · have run := State.supervisorRequest_accepted_reply (tag := tag) (by decide) rfl (hP _) hrule
      (by rw [ha]; rfl)
    have ended := State.evictNow_ended hrecords hwaiters hinvolved c
    have queue := s.queue_evictNow c
    have sources := s.evictNow_sources c
    generalize s.evictNow c = t at run ended queue sources
    exact ⟨_, congrArg Host.Outcome.next run, ended.gone, ended.port, ended.number, ended.policy, queue,
      State.attention_of_sessionEvicted queue, fun k => sources k (Nat.ne_of_lt k.isLt),
      ended.others, ended.untouched, ended.outside, ended.cpis, rfl, rfl⟩

/-! SET POLICY (R116) -/

section
variable {s t : State} {c : Client}

theorem flagOf_of_le {b : Byte} (h : b.toNat ≤ 1) : flagOf b = some (decide (b = 1)) := by
  unfold flagOf
  by_cases h0 : b = 0
  · rw [if_pos h0, h0]
    rfl
  · have h1 : b = 1 := by bv_omega
    rw [if_neg h0, if_pos h1, decide_eq_true h1]

theorem flagOf_of_lt {b : Byte} (h : 1 < b.toNat) : flagOf b = none := by
  have h0 : b ≠ 0 := by bv_omega
  have h1 : b ≠ 1 := by bv_omega
  unfold flagOf
  rw [if_neg h0, if_neg h1]

/-- The parameters are judged as three checks in their order (R173). -/
theorem setPolicyRule_checked (s : State) (c e t1 t0 u : Byte) :
    setPolicyRule [c, e, t1, t0, u] s
      = s.checked
          [ (decide (c.toNat < 4), .noClient),
            (decide (half t1 t0 ≠ 0), .badParams),
            (decide (e.toNat ≤ 1 ∧ u.toNat ≤ 1), .badParams) ]
          (s.setPolicyNow (Fin.ofNat 4 c.toNat)
            { enabled := decide (e = 1), maxTtl := half t1 t0, unwatched := decide (u = 1) }) := by
  unfold setPolicyRule State.withClient
  dsimp only
  by_cases hc : c.toNat < 4
  · rw [numberBelow_of_lt hc, decide_eq_true hc]
    dsimp only
    by_cases ht : half t1 t0 = 0
    · rw [if_pos ht, decide_eq_false (not_not_intro ht)]
      rfl
    · rw [if_neg ht, decide_eq_true (p := half t1 t0 ≠ 0) ht]
      by_cases he : e.toNat ≤ 1
      · by_cases hu : u.toNat ≤ 1
        · rw [flagOf_of_le he, flagOf_of_le hu, decide_eq_true (And.intro he hu)]
          rfl
        · rw [flagOf_of_lt (Nat.lt_of_not_le hu), flagOf_of_le he,
            decide_eq_false (p := e.toNat ≤ 1 ∧ u.toNat ≤ 1) fun h => hu h.2]
          rfl
      · rw [flagOf_of_lt (Nat.lt_of_not_le he), decide_eq_false fun h => he h.1]
        rfl
  · rw [numberBelow_of_le (Nat.le_of_not_lt hc), decide_eq_false hc]
    rfl

/-- The state after the client's policy is written. -/
def State.withPolicy (s : State) (c : Client) (x : Policy) : State :=
  s.setSession c { s.session c with policy := x }

theorem State.setPolicyNow_stays {x : Policy} (h : x.enabled = true ∨ s.attached c = false) :
    s.setPolicyNow c x = (s.withPolicy c x).reply .ok [flagByte false] := by
  refine if_neg ?_
  rcases h with h | h <;> simp [h]

theorem State.setPolicyNow_evicts {x : Policy} (h : x.enabled = false)
    (ha : s.attached c = true) :
    s.setPolicyNow c x = ((s.withPolicy c x).evictNow c).reply .ok [flagByte true] :=
  if_pos (by simp [h, ha])

theorem State.session_withPolicy_self (s : State) (c : Client) (x : Policy) :
    (s.withPolicy c x).session c = { s.session c with policy := x } :=
  s.session_setSession_self c _

theorem State.involvementWf_withPolicy (h : s.InvolvementWf) (c : Client) (x : Policy) :
    (s.withPolicy c x).InvolvementWf := fun d r => by
  unfold State.withPolicy
  rw [State.session_setSession]
  split
  · rename_i hd
    rw [hd]
    exact h c r
  · exact h d r

theorem State.evictNow_withPolicy_ended (hrecords : s.RecordsWf) (hwaiters : s.WaitersWf)
    (hinvolved : s.InvolvementWf) (c : Client) (x : Policy) :
    SessionEnded (s.withPolicy c x) ((s.withPolicy c x).evictNow c) c .lapsed := by
  have consistent : (s.withPolicy c x).Consistent :=
    (State.consistent_iff.mpr ⟨hrecords, hwaiters⟩).setPolicy c x
  obtain ⟨records, waiters⟩ := State.consistent_iff.mp consistent
  exact State.evictNow_ended records waiters (State.involvementWf_withPolicy hinvolved c x) c

/-- A session that ends after its policy was written, seen from the state before the write. -/
theorem SessionEnded.before_policy {ended : PortState} {x : Policy}
    (h : SessionEnded (s.withPolicy c x) t c ended) :
    s.sessionGone t c ∧ s.othersKeep t c ∧ s.othersUntouched t c ∧ s.sameOutside t
      ∧ (t.session c).number = (s.session c).number ∧ (t.session c).policy = x := by
  have own : OwnChange s (s.withPolicy c x) c := s.setSession_own c _
  refine ⟨h.gone, fun d hd => ?_, fun r hh hw => ?_, h.outside,
    h.number.trans (by rw [State.session_withPolicy_self]),
    h.policy.trans (by rw [State.session_withPolicy_self])⟩
  · have kept := h.others d hd
    unfold State.sameSession at kept
    rw [own.sessions d hd] at kept
    exact kept
  · obtain ⟨record, queue, entries, hold, grace, guard, others⟩ := h.untouched r hh hw
    refine ⟨record, queue, entries, hold, grace, guard, fun d hd => ?_⟩
    obtain ⟨notices, involves⟩ := others d hd
    rw [own.sessions d hd] at involves
    exact ⟨notices, involves⟩

end

/-- Settles O39: the eviction runs on the state with the policy written. -/
theorem setPolicyMayEvict : Obligations.SetPolicyMayEvict := by
  intro s tag c e t1 t0 u
  have hP : PortFree (setPolicyRequest.rule [c, e, t1, t0, u]) :=
    portFree_setPolicy [c, e, t1, t0, u]
  have hrule := setPolicyRule_checked s c e t1 t0 u
  split <;> rename_i hf
  · exact congrArg Host.Outcome.next
      (State.supervisorRequest_refused (by decide) rfl hP hrule hf)
  · generalize Fin.ofNat 4 c.toNat = p at hrule ⊢
    refine ⟨fun stays => ?_, fun disabled ha hrecords hwaiters hinvolved => ?_⟩
    · rw [State.setPolicyNow_stays (stays.imp_left decide_eq_true)] at hrule
      exact congrArg Host.Outcome.next
        (State.supervisorRequest_accepted_reply (by decide) rfl hP hrule hf)
    · have off : decide (e = 1) = false := decide_eq_false (by rw [disabled]; decide)
      rw [State.setPolicyNow_evicts off ha, off] at hrule
      have run := State.supervisorRequest_accepted_reply (tag := tag) (by decide) rfl hP hrule hf
      have ended := State.evictNow_withPolicy_ended hrecords hwaiters hinvolved p
        { enabled := false, maxTtl := half t1 t0, unwatched := decide (u = 1) }
      have queue := State.queue_evictNow (s.withPolicy p
        { enabled := false, maxTtl := half t1 t0, unwatched := decide (u = 1) }) p
      rw [State.session_withPolicy_self] at queue
      generalize State.evictNow _ p = t at run ended queue
      obtain ⟨gone, others, untouched, outside, number, policy⟩ := ended.before_policy
      exact ⟨_, congrArg Host.Outcome.next run, gone, ended.port, number, policy, queue, others,
        untouched, outside, ended.cpis, rfl, rfl⟩

end Sys2Proof.Machine
end

section
/-! PROOF. The requests of a client on its own notice queue: FETCH (R129, R130), and SET ATTENTION with
the line that follows the mask (R133, R134). -/

namespace Sys2Proof.Machine

/-! FETCH -/

section
variable {s : State} {p : Client}

/-- A request that a disabled port admits needs no enabled port to reach its owner (R106). -/
theorem State.clientRequest_admitted {tag : Byte} {q : ClientRequest} {params : List Byte}
    (between : s.between p = true) (fresh : s.fresh p tag) (admitted : q.whenDisabled = true)
    (hq : q.length ≤ 16) (hl : params.length = q.length) (hr : q.inRange params = true)
    (hP : PortFree (q.rule p params)) {d : Decision}
    (hd : q.rule p params (s.keepSession p) = d) :
    s.clientRequest p q tag params (goodCrc q.code tag params)
      = d.state.afterReply p q.code tag params d.status d.payload := by
  have decided : s.decideRequest p q params = d := by
    unfold State.decideRequest
    rw [admitted, Bool.or_true]
    exact hd
  rw [State.clientRequest_executed between q tag params hq hl hr fresh hP, decided]

/-- A FETCH is carried out on the state after the implicit keepalive, whatever the port's policy. -/
theorem execFetch_decided {tag : Byte} (between : s.between p = true) (fresh : s.fresh p tag)
    {d : Decision} (hd : fetchRule p [] (s.keepSession p) = d) :
    exec (.fetch p tag [] (goodCrc 0x20 tag [])) s
      = .next (d.state.afterReply p 0x20 tag [] d.status d.payload) :=
  have hP : PortFree (fetchRequest.rule p []) := portFree_fetch p []
  congrArg Host.Outcome.next
    (State.clientRequest_admitted between fresh rfl (by decide) rfl rfl hP hd)

theorem fetchRule_of_nil (params : List Byte) (h : (s.noticeQueue p).queue = []) :
    fetchRule p params s = s.reply .empty [0] := by
  unfold fetchRule
  dsimp only
  rw [h]

theorem fetchRule_of_cons (params : List Byte) {n : Notice} {rest : List Notice}
    (h : (s.noticeQueue p).queue = n :: rest) :
    fetchRule p params s
      = ((s.setNoticeQueue p { s.noticeQueue p with queue := rest }).reportRemoved p n).reply .ok
          (countByte rest.length :: n.bytes) := by
  unfold fetchRule
  dsimp only
  rw [h]

/-- The report of a resource notice taken off the queue: what still concerns the client is a lease, an
entry, or a notice among those that stay (R118, R130). -/
theorem State.reportRemoved_resource (s : State) (p : Client) (rest : List Notice) (r : Res)
    (w : ResourceWord) (k : Byte) :
    (s.setNoticeQueue p { s.noticeQueue p with queue := rest }).reportRemoved p (.resource r w k)
      = { s with
          notices := Vec.set s.notices p { s.noticeQueue p with queue := rest }
          sessions := Vec.set s.sessions p
            ((s.session p).setInvolves r
              (s.holds r p || s.waits r p || rest.any (Notice.about r))) } := by
  refine State.report_eq ?_
  unfold State.concerns State.unread
  rw [State.noticeQueue_setNoticeQueue_self]
  rfl

end

/-- Settles O27: the rule reads the queue and the ties of the client, which the keepalive leaves, and
the report of the notice is made on the queue without it. -/
theorem fetchTakesTheHead : Obligations.FetchTakesTheHead := by
  intro s p tag between fresh
  have queue : (s.keepSession p).noticeQueue p = s.noticeQueue p := s.noticeQueue_keepSession p p
  refine ⟨fun empty => ?_, fun n hn => ?_⟩
  · exact execFetch_decided between fresh
      (fetchRule_of_nil [] ((congrArg NoticeQueue.queue queue).trans empty))
  · obtain ⟨rest, head⟩ : ∃ rest, (s.noticeQueue p).queue = n :: rest :=
      List.head?_eq_some_iff.mp hn
    have run := execFetch_decided between fresh
      (fetchRule_of_cons [] ((congrArg NoticeQueue.queue queue).trans head))
    rw [run, head]
    obtain ⟨l, hl⟩ := s.keepSession_eq p
    rw [hl]
    cases n with
    | resource r w k =>
      rw [State.reportRemoved_resource]
      cases w <;> rfl
    | sessionLapsed v => rfl
    | sessionEvicted v => rfl

/-! SET ATTENTION -/

theorem ResourceWord.kind_sub_one_lt (w : ResourceWord) : w.kind - 1 < 6 := by
  cases w <;> simp [ResourceWord.kind]

/-- Under the mask that a parameter byte gives, a resource notice asserts the line by the bit of its
kind in that byte (R132, R134). -/
theorem Notice.asserts_resource (m : Byte) (r : Res) (w : ResourceWord) (k : Byte) :
    Notice.asserts (m.setWidth 6) (.resource r w k) = m.getLsbD (w.kind - 1) := by
  have bit : (m.setWidth 6).getLsbD (w.kind - 1) = m.getLsbD (w.kind - 1) := by
    rw [BitVec.getLsbD_setWidth, decide_eq_true w.kind_sub_one_lt, Bool.true_and]
  exact bit

theorem State.attention_iff (s : State) (c : Client) :
    s.attention c = true
      ↔ ∃ n ∈ (s.noticeQueue c).queue, n.asserts (s.noticeQueue c).mask = true :=
  List.any_eq_true

/-- A request's answer moves no line. -/
theorem State.attention_afterReply (s : State) (p : Client) (code tag : Byte) (params : List Byte)
    (st : Status) (payload : List Byte) (c : Client) :
    (s.afterReply p code tag params st payload).attention c = s.attention c := rfl

theorem State.attention_setMask (s : State) (p : Client) (k : BitVec 6) :
    (s.setNoticeQueue p { s.noticeQueue p with mask := k }).attention p = true
      ↔ ∃ n ∈ (s.noticeQueue p).queue, n.asserts k = true := by
  rw [State.attention_iff, State.noticeQueue_setNoticeQueue_self]

theorem setAttentionRule_of_attached {s : State} {p : Client} (h : s.attached p = true) (m : Byte) :
    setAttentionRule p [m] s
      = (s.setNoticeQueue p { s.noticeQueue p with mask := m.setWidth 6 }).answer .ok := if_pos h

/-- Settles O28: the mask is written on the state after the keepalive, and the line is read off the
queue, which stays. -/
theorem setAttentionMovesTheLine : Obligations.SetAttentionMovesTheLine := by
  intro s p tag m reach attached inRange
  have hP : PortFree (setAttentionRequest.rule p [m]) := portFree_setAttention p [m]
  have hrule : setAttentionRequest.rule p [m] (s.keepSession p) = _ :=
    setAttentionRule_of_attached ((s.attached_keepSession p p).trans attached) m
  have run := State.clientRequest_decided (tag := tag) reach (by decide) rfl
    (attentionInRange_of_lt (params := [m]) rfl inRange) hP hrule
  refine ⟨_, congrArg Host.Outcome.next run, ?_, ?_⟩
  · rw [State.noticeQueue_keepSession]
    obtain ⟨l, hl⟩ := s.keepSession_eq p
    rw [hl]
    rfl
  · rw [State.attention_afterReply]
    refine (State.attention_setMask (s.keepSession p) p (m.setWidth 6)).trans ?_
    rw [State.noticeQueue_keepSession]
    refine exists_congr fun n => and_congr_right fun _ => ?_
    cases n with
    | resource r w k => rw [Notice.asserts_resource]
    | sessionLapsed v => exact iff_of_true rfl trivial
    | sessionEvicted v => exact iff_of_true rfl trivial

end Sys2Proof.Machine
end

section
/-! PROOF. The gate lines: the level of a pin (R137, R139), and the two requests that change a
binding, BIND GATE (R140) and UNBIND GATE (R141). -/

namespace Sys2Proof.Machine

/-! The level of a gate (R137) -/

section
variable {s : State} {g : Gate} {b : Binding}

theorem State.gateActive_of_unbound (h : s.gate g = none) : s.gateActive g = false := by
  unfold State.gateActive
  rw [h]

theorem State.gateActive_of_bound (h : s.gate g = some b) : s.gateActive g = s.covered b := by
  unfold State.gateActive
  rw [h]

theorem State.gateLevel_of_bound (h : s.gate g = some b) :
    s.gateLevel g = b.polarity.level (s.gateActive g) := by
  unfold State.gateLevel
  rw [State.gateActive_of_bound h, h]

/-- The level of a gate follows from its binding and from the records. -/
theorem State.gateLevel_congr {t : State} (hb : t.gate g = s.gate g)
    (hr : t.records = s.records) : t.gateLevel g = s.gateLevel g := by
  unfold State.gateLevel State.covered State.record
  rw [hb, hr]

theorem State.covered_iff (s : State) (b : Binding) :
    s.covered b = true
      ↔ ((s.record b.resource).state = .held ∨ (s.record b.resource).state = .revoking)
        ∧ s.holds b.resource b.client = true
        ∧ (b.cover = .anyMode ∨ (s.record b.resource).heldMode = some .exclusive) := by
  unfold State.covered State.holds
  simp only [Bool.and_eq_true, Bool.or_eq_true, beq_iff_eq, and_assoc]

/-- A bound gate is active exactly when its client holds the resource in a covered mode (R137). -/
theorem State.gateActive_iff_of_bound (h : s.gate g = some b) :
    s.gateActive g = true
      ↔ ((s.record b.resource).state = .held ∨ (s.record b.resource).state = .revoking)
        ∧ s.holds b.resource b.client = true
        ∧ (b.cover = .anyMode ∨ (s.record b.resource).heldMode = some .exclusive) := by
  rw [State.gateActive_of_bound h]
  exact s.covered_iff b

theorem State.gateLevel_afterStored (s : State) (tag : Byte) (st : Status) (payload : List Byte)
    (g : Gate) : (s.afterStored tag st payload).gateLevel g = s.gateLevel g := rfl

theorem State.gateActive_afterStored (s : State) (tag : Byte) (st : Status) (payload : List Byte)
    (g : Gate) : (s.afterStored tag st payload).gateActive g = s.gateActive g := rfl

theorem Polarity.level_eq_true_iff (p : Polarity) (active : Bool) :
    p.level active = true ↔ (active = true ↔ p = .highActive) := by
  cases p <;> cases active <;> decide

end

/-! Gates of two clients (R139) -/

/-- A record in mode EXCLUSIVE has one holder. -/
theorem Record.Wf.sole_holder {x : Record} (h : x.Wf) (hm : x.heldMode = some .exclusive)
    {c d : Client} (hc : (x.lease c).isSome = true) (hd : (x.lease d).isSome = true) : c = d := by
  obtain ⟨-, -, -, -, sole, -, -⟩ := h
  obtain ⟨e, he⟩ := List.length_eq_one_iff.mp (sole hm)
  have only {k : Client} (hk : (x.lease k).isSome = true) : k = e := by
    rw [← List.mem_singleton, ← he]
    exact mem_holders.mpr hk
  rw [only hc, only hd]

/-- Where a binding that covers EXCLUSIVE only is met, its client holds the resource in that mode. -/
theorem State.holds_exclusive_of_covered {s : State} {b : Binding} (h : s.covered b = true)
    (hb : b.cover = .exclusiveOnly) :
    s.holds b.resource b.client = true ∧ (s.record b.resource).heldMode = some .exclusive := by
  obtain ⟨-, holds, mode⟩ := (s.covered_iff b).mp h
  exact ⟨holds, mode.resolve_left (by rw [hb]; nofun)⟩

theorem State.RecordsWf.not_both_covered {s : State} (h : s.RecordsWf) {b b' : Binding}
    (hr : b.resource = b'.resource) (hc : b.client ≠ b'.client) (hb : b.cover = .exclusiveOnly)
    (hb' : b'.cover = .exclusiveOnly) : ¬(s.covered b = true ∧ s.covered b' = true) := by
  rintro ⟨active, active'⟩
  obtain ⟨holds, mode⟩ := State.holds_exclusive_of_covered active hb
  obtain ⟨holds', -⟩ := State.holds_exclusive_of_covered active' hb'
  rw [← hr] at holds'
  exact hc ((h b.resource).sole_holder mode holds holds')

/-- Settles O6: two clients that both held the resource in mode EXCLUSIVE would be its one holder. -/
theorem gateLevels : Obligations.GateLevels := by
  intro s g g'
  refine ⟨fun unbound => ⟨State.gateLevel_of_unbound unbound, State.gateActive_of_unbound unbound⟩,
    fun b bound => ⟨State.gateActive_iff_of_bound bound, fun high => ?_, fun low => ?_⟩,
    fun wf b bound b' bound' hr hc hb hb' => ?_⟩
  · rw [State.gateLevel_of_bound bound, high]
    rfl
  · rw [State.gateLevel_of_bound bound, low]
    rfl
  · rw [State.gateActive_of_bound bound, State.gateActive_of_bound bound']
    exact wf.not_both_covered hr hc hb hb'

/-! UNBIND GATE (R141) -/

theorem unbindGateRule_of_le (s : State) {n : Byte} (h : 16 ≤ n.toNat) :
    unbindGateRule [n] s = s.answer .noGate := by
  unfold unbindGateRule
  dsimp only
  rw [numberBelow_of_le h]

theorem unbindGateRule_of_lt (s : State) {n : Byte} (h : n.toNat < 16) :
    unbindGateRule [n] s
      = (s.setGate (Fin.ofNat 16 n.toNat) none).reply .ok
          [flagByte (s.gate (Fin.ofNat 16 n.toNat)).isSome] := by
  unfold unbindGateRule
  dsimp only
  rw [numberBelow_of_lt h]

theorem flagByte_isSome {α : Type} [DecidableEq α] (o : Option α) :
    flagByte o.isSome = if o = none then 0 else 1 := by
  cases o <;> rfl

/-- An UNBIND GATE leaves what its rule decides, with the answer stored. -/
theorem exec_unbindGate {s : State} {n : Byte} {d : Decision} (tag : Byte)
    (h : unbindGateRule [n] s = d) :
    exec (.unbindGate tag [n] (goodCrc 0x51 tag [n])) s
      = .next (d.state.afterStored tag d.status d.payload) := by
  have hP : PortFree (unbindGateRequest.rule [n]) := portFree_unbindGate [n]
  rw [← h]
  exact congrArg Host.Outcome.next
    (s.supervisorRequest_taken unbindGateRequest tag [n] (by decide) rfl hP)

/-- Settles O38: the answer moves no pin, and an unbound gate is low. -/
theorem unbindGateDropsThePin : Obligations.UnbindGateDropsThePin := by
  intro s tag n
  refine ⟨fun h => exec_unbindGate tag (unbindGateRule_of_le s h), fun h =>
    ⟨_, exec_unbindGate tag (unbindGateRule_of_lt s h), ?_, ?_, fun g' hg => ?_⟩⟩
  · rw [← flagByte_isSome]
    rfl
  · exact (State.gateLevel_afterStored ..).trans
      (State.gateLevel_of_unbound (s.gate_setGate_self _ none))
  · exact (State.gateLevel_afterStored ..).trans
      (State.gateLevel_congr ((s.gate_setGate _ none g').trans (if_neg hg)) rfl)

/-! BIND GATE (R140) -/

/-- A code of two values: 0 for the one, 1 for the other. -/
theorem twoCodes_eq {α : Type} (b : Byte) (x y : α) :
    (if b = 0 then some x else if b = 1 then some y else none)
      = if b.toNat ≤ 1 then some (if b = 0 then x else y) else none := by
  by_cases h0 : b = 0
  · rw [if_pos h0, if_pos h0, h0]
    rfl
  · have one : b = 1 ↔ b.toNat ≤ 1 := by bv_omega
    rw [if_neg h0, if_neg h0, if_congr one rfl rfl]

theorem coverOf_eq (v : Byte) :
    coverOf v = if v.toNat ≤ 1 then some (if v = 0 then .exclusiveOnly else .anyMode) else none :=
  twoCodes_eq v _ _

theorem polarityOf_eq (o : Byte) :
    polarityOf o = if o.toNat ≤ 1 then some (if o = 0 then .highActive else .lowActive) else none :=
  twoCodes_eq o _ _

/-- The binding that the parameters after the gate number spell (TABLE 8-1). -/
def bindingOf (r c v o : Byte) : Binding :=
  { resource := Fin.ofNat 64 r.toNat, client := Fin.ofNat 4 c.toNat
    cover := if v = 0 then .exclusiveOnly else .anyMode
    polarity := if o = 0 then .highActive else .lowActive }

theorem bindingOf_cover_iff (r c v o : Byte) : (bindingOf r c v o).cover = .anyMode ↔ v ≠ 0 := by
  unfold bindingOf
  by_cases h : v = 0 <;> simp [h]

theorem bindingOf_polarity_iff (r c v o : Byte) :
    (bindingOf r c v o).polarity = .highActive ↔ o = 0 := by
  unfold bindingOf
  by_cases h : o = 0 <;> simp [h]

section
variable {s : State} {l : List (Bool × Status)} {d : Decision}

theorem State.checked_cons (s : State) (ok : Bool) (st : Status) (l : List (Bool × Status))
    (d : Decision) : s.checked ((ok, st) :: l) d = if ok then s.checked l d else s.answer st := by
  cases ok <;> rfl

/-- A resource number is one more check before those of the request. -/
theorem State.withNumber_eq_checked {r : Byte} {next : Res → Decision}
    (h : next (Fin.ofNat 64 r.toNat) = s.checked l d) :
    s.withNumber r next = s.checked ((decide (r.toNat < 64), .noResource) :: l) d := by
  unfold State.withNumber
  rw [State.checked_cons]
  by_cases hr : r.toNat < 64
  · rw [numberBelow_of_lt hr, if_pos (decide_eq_true hr)]
    exact h
  · rw [numberBelow_of_le (Nat.le_of_not_lt hr), decide_eq_false hr]
    rfl

/-- A client number is one more check before those of the request. -/
theorem State.withClient_eq_checked {c : Byte} {next : Client → Decision}
    (h : next (Fin.ofNat 4 c.toNat) = s.checked l d) :
    s.withClient c next = s.checked ((decide (c.toNat < 4), .noClient) :: l) d := by
  unfold State.withClient
  rw [State.checked_cons]
  by_cases hc : c.toNat < 4
  · rw [numberBelow_of_lt hc, if_pos (decide_eq_true hc)]
    exact h
  · rw [numberBelow_of_le (Nat.le_of_not_lt hc), decide_eq_false hc]
    rfl

end

/-- The numbers and the two codes are judged as four checks before the request's own. -/
theorem bindGateRule_checked (s : State) (n r c v o : Byte) :
    bindGateRule [n, r, c, v, o] s
      = s.checked
          [ (decide (n.toNat < 16), .noGate),
            (decide (r.toNat < 64), .noResource),
            (decide (c.toNat < 4), .noClient),
            (decide (v.toNat ≤ 1 ∧ o.toNat ≤ 1), .badParams),
            ((s.gate (Fin.ofNat 16 n.toNat)).isNone, .gateBound) ]
          (s.bindNow (Fin.ofNat 16 n.toNat) (bindingOf r c v o)) := by
  unfold bindGateRule
  dsimp only
  by_cases hn : n.toNat < 16
  · rw [numberBelow_of_lt hn, decide_eq_true hn]
    refine State.withNumber_eq_checked (State.withClient_eq_checked ?_)
    rw [State.checked_cons, coverOf_eq, polarityOf_eq]
    by_cases hv : v.toNat ≤ 1
    · by_cases ho : o.toNat ≤ 1
      · rw [if_pos hv, if_pos ho, if_pos (decide_eq_true (And.intro hv ho))]
        rfl
      · rw [if_pos hv, if_neg ho,
          decide_eq_false (p := v.toNat ≤ 1 ∧ o.toNat ≤ 1) fun h => ho h.2]
        rfl
    · rw [if_neg hv, decide_eq_false (p := v.toNat ≤ 1 ∧ o.toNat ≤ 1) fun h => hv h.1]
      rfl
  · rw [numberBelow_of_le (Nat.le_of_not_lt hn), decide_eq_false hn]
    rfl

/-- The bits of the answer do not overlap, so they add up. -/
theorem flagByte_or_shift (level active : Bool) :
    flagByte level ||| (flagByte active <<< 1)
      = BitVec.ofNat 8 ((if level then 1 else 0) + if active then 2 else 0) := by
  cases level <;> cases active <;> rfl

theorem State.bindNow_eq (s : State) (g : Gate) (b : Binding) :
    s.bindNow g b
      = (s.setGate g (some b)).reply .ok
          [BitVec.ofNat 8
            ((if (s.setGate g (some b)).gateLevel g then 1 else 0)
              + if (s.setGate g (some b)).gateActive g then 2 else 0)] := by
  unfold State.bindNow
  dsimp only
  rw [flagByte_or_shift]

/-- Settles O37: the answer moves no pin, so the level is that of the state with the binding
written. -/
theorem bindGateDrivesThePin : Obligations.BindGateDrivesThePin := by
  intro s tag n r c v o
  have hP : PortFree (bindGateRequest.rule [n, r, c, v, o]) := portFree_bindGate [n, r, c, v, o]
  have hrule := bindGateRule_checked s n r c v o
  split <;> rename_i hf
  · exact congrArg Host.Outcome.next
      (State.supervisorRequest_refused (by decide) rfl hP hrule hf)
  · rw [State.bindNow_eq] at hrule
    have run := State.supervisorRequest_accepted_reply (tag := tag) (by decide) rfl hP hrule hf
    have bound := s.gate_setGate_self (Fin.ofNat 16 n.toNat) (some (bindingOf r c v o))
    refine ⟨_, congrArg Host.Outcome.next run, rfl, ?_, ?_⟩
    · rw [← bindingOf_cover_iff r c v o, State.gateActive_afterStored]
      exact State.gateActive_iff_of_bound bound
    · rw [← bindingOf_polarity_iff r c v o, State.gateLevel_afterStored,
        State.gateActive_afterStored, State.gateLevel_of_bound bound]
      exact Polarity.level_eq_true_iff _ _

end Sys2Proof.Machine
end

section
/-! PROOF. A frame on a client port: the frame checks (R147 to R149, R157), the replay guard (R154,
R155), and STATUS (R158). -/

namespace Sys2Proof.Machine

/-! The catalogue and the rows -/

/-- No two requests of the client catalogue share a code. -/
theorem clientRequestOf_code {q : ClientRequest} (hq : q ∈ clientCatalogue) :
    clientRequestOf q.code = some q := by
  simp only [clientCatalogue, List.mem_cons, List.not_mem_nil, or_false] at hq
  rcases hq with rfl | rfl | rfl | rfl | rfl | rfl | rfl | rfl | rfl | rfl | rfl | rfl | rfl <;> rfl

/-- A code that no row of the statements has names no client request. -/
theorem clientRequestOf_eq_none {code : Byte}
    (h : (clientRows.all fun row => row.code != code) = true) : clientRequestOf code = none := by
  have codes : clientCatalogue.map ClientRequest.code = clientRows.map ClientRow.code := rfl
  refine List.find?_eq_none.mpr fun q hq same => ?_
  obtain ⟨row, hrow, hcode⟩ :=
    List.mem_map.mp (codes ▸ List.mem_map_of_mem (f := ClientRequest.code) hq)
  exact bne_iff_ne.mp (List.all_eq_true.mp h row hrow) (hcode.trans (beq_iff_eq.mp same))

theorem le_of_claimInRange {params : List Byte} (hl : params.length = 6)
    (hr : claimInRange params = true) : (params.getD 1 0).toNat ≤ 1 := by
  match params, hl with
  | [r, m, h1, h0, w1, w0], _ =>
    show m.toNat ≤ 1
    have named : (modeOf m).isSome = true := hr
    unfold modeOf at named
    by_cases shared : m = 0
    · simp [shared]
    · by_cases exclusive : m = 1
      · simp [exclusive]
      · rw [if_neg shared, if_neg exclusive] at named
        cases named

theorem lt_of_attentionInRange {params : List Byte} (hl : params.length = 1)
    (hr : attentionInRange params = true) : (params.getD 0 0).toNat < 64 := by
  match params, hl with
  | [m], _ =>
    show m.toNat < 64
    have named : (flagsBelow 6 m).isSome = true := hr
    unfold flagsBelow at named
    by_contra large
    rw [if_neg (show ¬m.toNat < 2 ^ 6 from large)] at named
    cases named

/-- What passes the port's range check passes the one of the row (R148). -/
theorem ClientRow.Runs.row_inRange {row : ClientRow} {q : ClientRequest} (hq : row.Runs q)
    (hrow : row ∈ clientRows) {params : List Byte} (hl : params.length = row.length)
    (hr : q.inRange params = true) : row.inRange params = true := by
  have named : clientRequestOf row.code = some q := hq.code ▸ clientRequestOf_code hq.mem
  simp only [clientRows, List.mem_cons, List.not_mem_nil, or_false] at hrow
  rcases hrow with rfl | rfl | rfl | rfl | rfl | rfl | rfl | rfl | rfl | rfl | rfl | rfl | rfl
  · rfl
  · rfl
  · rfl
  · rfl
  · obtain rfl : claimRequest = q := Option.some.inj named
    exact decide_eq_true (le_of_claimInRange hl hr)
  · rfl
  · rfl
  · rfl
  · rfl
  · rfl
  · rfl
  · rfl
  · obtain rfl : setAttentionRequest = q := Option.some.inj named
    exact decide_eq_true (lt_of_attentionInRange hl hr)

/-! Frame refusals -/

section
variable {s : State} {p : Client}

theorem not_maxParams_lt {params : List Byte} (h : params.length ≤ 16) :
    ¬maxParams < params.length := Nat.not_lt.mpr h

theorem Frame.intact_iff {code tag crc : Byte} {params : List Byte} :
    Frame.intact { code, tag, params, crc } = true ↔ crc = goodCrc code tag params := beq_iff_eq

/-- A wrong CRC byte is refused before the code is looked up (R148). -/
theorem execClientUnknownRequest_badFrame (between : s.between p = true) {code tag crc : Byte}
    {params : List Byte} (hl : params.length ≤ 16) (hc : crc ≠ goodCrc code tag params) :
    execClientUnknownRequest p code tag params crc s
      = .next (s.afterRefusal p .badFrame tag) := by
  unfold execClientUnknownRequest State.takeFrame
  rw [if_neg (not_maxParams_lt hl), if_neg (mt Frame.intact_iff.mp hc),
    State.refuseFrame_of_between between]

/-- An intact frame whose code names no client request is refused (R148). -/
theorem execClientUnknownRequest_intact (between : s.between p = true) {code tag crc : Byte}
    {params : List Byte} (hl : params.length ≤ 16) (hc : crc = goodCrc code tag params)
    (unknown : clientRequestOf code = none) :
    execClientUnknownRequest p code tag params crc s
      = .next (s.afterRefusal p .unknownRequest tag) := by
  unfold execClientUnknownRequest State.takeFrame
  rw [if_neg (not_maxParams_lt hl), if_pos (Frame.intact_iff.mpr hc), unknown]
  exact congrArg Host.Outcome.next (State.refuseFrame_of_between between _ tag)

/-- A length byte of 17 or more is refused at its arrival (R147). -/
theorem execClientBadLength_refused (between : s.between p = true) (code tag : Byte) {len : Byte}
    (hl : 17 ≤ len.toNat) :
    execClientBadLength p code tag len s = .next (s.afterRefusal p .badLength tag) := by
  unfold execClientBadLength
  rw [State.bytesArrive_badLength code tag len hl (s.framing_beginTransaction p),
    State.refuseFrame_of_between between]

end

/-- Settles O7: the CRC byte is checked first, then the code, then the parameters; the length byte
is refused before any of them. -/
theorem clientFrameRefusals : Obligations.ClientFrameRefusals := by
  intro s p code tag len params crc between
  refine ⟨fun row hrow hl => ?_, fun unknown hl =>
    ⟨execClientUnknownRequest_badFrame between hl, fun hc =>
      execClientUnknownRequest_intact between hl hc (clientRequestOf_eq_none unknown)⟩,
    execClientBadLength_refused between code tag⟩
  obtain ⟨q, hq⟩ := clientRow_runs hrow
  rw [hq.exec, ← hq.code]
  refine ⟨fun hc => ?_, fun hc unfit => ?_⟩
  · rw [State.clientRequest_badFrame between q tag params crc hl hc]
  · have misfit : ¬(params.length = q.length ∧ q.inRange params = true) := by
      rintro ⟨fits, within⟩
      have fitsRow : params.length = row.length := fits.trans hq.length
      rcases unfit with long | outside
      · exact long fitsRow
      · exact Bool.false_ne_true (outside.symm.trans (hq.row_inRange hrow fitsRow within))
    rw [hc, State.clientRequest_badParams between q tag params hl misfit]

/-! The replay guard -/

section
variable {s : State} {p : Client} {q : ClientRequest} {tag : Byte} {params : List Byte}

/-- A frame that passes the four checks goes to the replay guard of the port as it was before the
transaction. -/
theorem State.clientRequest_reachesGuard (between : s.between p = true) (hq : q ∈ clientCatalogue)
    (hmax : q.length ≤ 16) (hl : params.length = q.length) (hr : q.inRange params = true) :
    s.clientRequest p q tag params (goodCrc q.code tag params)
      = s.replayGuard p q { code := q.code, tag, params, crc := goodCrc q.code tag params } := by
  have unbuffered := State.takeFrame_setFraming s p (some q)
    (fun x hx l => Option.mem_some_iff.mp hx ▸ clientCatalogue_framingFree hq p l) (.receiving [])
    { code := q.code, tag, params, crc := goodCrc q.code tag params }
  unfold State.clientRequest
  rw [if_neg (not_maxParams_lt (hl ▸ hmax)), State.beginTransaction_of_between between]
  refine unbuffered.trans ?_
  unfold State.takeFrame
  exact (if_pos (Frame.intact_iff.mpr rfl)).trans (if_pos ⟨hl, hr⟩)

/-- The frame of the last executed request is answered with the stored response (R154). -/
theorem State.replayGuard_replay {f : Frame} {old : Response} (hf : f.tag ≠ 0)
    (repeated : f.tag = (s.cpi p).lastTag) (stored : (s.cpi p).lastResponse = some old)
    (same : (s.cpi p).lastRequest = f.bytes) :
    s.replayGuard p q f = s.respond p { old with replay := true } := by
  unfold State.replayGuard
  dsimp only
  rw [if_pos ⟨hf, repeated⟩, stored]
  exact if_pos same

/-- Another frame with the tag of the last executed request is refused (R154). -/
theorem State.replayGuard_tagReused {f : Frame} {old : Response} (hf : f.tag ≠ 0)
    (repeated : f.tag = (s.cpi p).lastTag) (stored : (s.cpi p).lastResponse = some old)
    (other : (s.cpi p).lastRequest ≠ f.bytes) :
    s.replayGuard p q f = s.respond p ((s.answer .tagReused).response f.tag) := by
  unfold State.replayGuard
  dsimp only
  rw [if_pos ⟨hf, repeated⟩, stored]
  exact if_neg other

theorem State.replayGuard_fresh {f : Frame} (fresh : s.fresh p f.tag) :
    s.replayGuard p q f = s.execute p q f := by
  unfold State.replayGuard
  exact if_neg fun ⟨hf, repeated⟩ => fresh.elim hf fun renewed => renewed repeated

/-- A fresh frame of any request of the catalogue, STATUS among them, leaves what its owner decides
on the state as it stands, with the answer on the port and in its replay record (R155). -/
theorem State.clientRequest_answered (between : s.between p = true) (fresh : s.fresh p tag)
    (hq : q ∈ clientCatalogue) (hmax : q.length ≤ 16) (hl : params.length = q.length)
    (hr : q.inRange params = true) :
    s.clientRequest p q tag params (goodCrc q.code tag params)
      = (s.decideRequest p q params).state.afterReply p q.code tag params
          (s.decideRequest p q params).status (s.decideRequest p q params).payload :=
  (State.clientRequest_reachesGuard between hq hmax hl hr).trans (State.replayGuard_fresh fresh)

/-- No client request's rule writes a client port. -/
theorem clientCatalogue_keeps_cpis (hq : q ∈ clientCatalogue) (hl : params.length = q.length)
    (hr : q.inRange params = true) (s : State) : (q.rule p params s).state.cpis = s.cpis := by
  have named := clientRequestOf_code hq
  by_cases status : q.code = 0x01
  · rw [status] at named
    obtain rfl : statusRequest = q := Option.some.inj named
    rfl
  · by_cases fetch : q.code = 0x20
    · rw [fetch] at named
      obtain rfl : fetchRequest = q := Option.some.inj named
      exact ((portFree_fetch p params).ports s).1
    · exact ((clientCatalogue_portFree hq status fetch p hl hr).ports s).1

/-- Neither admission nor the implicit keepalive writes a client port either. -/
theorem State.cpi_decideRequest (s : State) (hq : q ∈ clientCatalogue)
    (hl : params.length = q.length) (hr : q.inRange params = true) (c : Client) :
    (s.decideRequest p q params).state.cpi c = s.cpi c := by
  have cpis : (s.decideRequest p q params).state.cpis = s.cpis := by
    unfold State.decideRequest
    split
    · obtain ⟨l, kept⟩ := s.keepSession_eq p
      rw [clientCatalogue_keeps_cpis hq hl hr, kept]
    · rfl
  exact congrArg (Vec.get · c) cpis

theorem State.cpi_afterReply_self (s : State) (p : Client) (code tag : Byte) (params : List Byte)
    (st : Status) (payload : List Byte) :
    (s.afterReply p code tag params st payload).cpi p
      = { framing := .responding { status := st, tag, replay := false, payload } 0
          lastTag := tag
          lastRequest := frameBytes code tag params
          lastResponse := some { status := st, tag, replay := false, payload }
          linkErrors := (s.cpi p).linkErrors } :=
  s.cpi_setCpi_self p _

end

/-- Settles O8: the guard reads the replay record alone, and a request that it lets through is
stored with its answer. -/
theorem replayGuardDecides : Obligations.ReplayGuardDecides := by
  intro s p tag params between row hrow hl hr
  obtain ⟨q, hq⟩ := clientRow_runs hrow
  have hlq : params.length = q.length := hl.trans hq.length.symm
  have hrq : q.inRange params = true := hq.inRange params hl hr
  have hmax : q.length ≤ 16 := hq.length ▸ clientRow_length_le row hrow
  rw [hq.exec, ← hq.code]
  refine ⟨fun tagged repeated old stored => ?_, fun fresh => ?_⟩
  · rw [State.clientRequest_reachesGuard between hq.mem hmax hlq hrq]
    exact ⟨fun same =>
        congrArg Host.Outcome.next (State.replayGuard_replay tagged repeated stored same),
      fun other =>
        congrArg Host.Outcome.next (State.replayGuard_tagReused tagged repeated stored other)⟩
  · rw [State.clientRequest_answered between fresh hq.mem hmax hlq hrq]
    refine ⟨_, rfl, ?_⟩
    rw [State.cpi_afterReply_self]
    have counted := congrArg Cpi.linkErrors (s.cpi_decideRequest (p := p) hq.mem hlq hrq p)
    exact ⟨rfl, rfl, counted, by simp⟩

/-! STATUS (R158) -/

/-- The implicit keepalive does not show in the payload of STATUS. -/
theorem State.statusBytes_keepSession (s : State) (p c : Client) :
    (s.keepSession p).statusBytes c = s.statusBytes c := by
  obtain ⟨l, kept⟩ := s.keepSession_eq p
  rw [kept]
  rfl

/-- The payload of STATUS, field by field (TABLE 11-5). -/
theorem State.statusBytes_eq (s : State) (p : Client) :
    s.statusBytes p
      = ([ match (s.session p).port with
          | .detached => 0
          | .attached => 1
          | .lapsed => 2,
          if s.enabled p then 1 else 0 ] : List Byte)
        ++ bytesOf 2 (s.session p).number
        ++ [ BitVec.ofNat 8 (s.session p).tally,
             BitVec.ofNat 8 (s.noticeQueue p).queue.length,
             (s.cpi p).linkErrors ]
        ++ bytesOf 4 s.clock ++ [0x4A, 0x64] := rfl

/-- A disabled port admits STATUS (R106). -/
theorem State.decideRequest_status (s : State) (p : Client) :
    s.decideRequest p statusRequest [] = (s.keepSession p).reply .ok (s.statusBytes p) := by
  unfold State.decideRequest
  rw [← s.statusBytes_keepSession p p]
  exact if_pos (Bool.or_true (s.enabled p))

/-- Settles O11: the rule reads the state after the implicit keepalive and writes nothing. -/
theorem statusReports : Obligations.StatusReports := by
  intro s p tag between fresh
  have run := State.clientRequest_answered (params := []) between fresh
    (q := statusRequest) List.mem_cons_self (by decide) rfl rfl
  rw [State.decideRequest_status, State.statusBytes_eq] at run
  exact congrArg Host.Outcome.next run

end Sys2Proof.Machine
end

section
/-! PROOF. The end of a transaction on a client port: CS rises on a request half arrived and on a
request already taken (R145, R151, R152, R157), and a new frame begins as after such a rise (entry
2). -/

namespace Sys2Proof.Machine

/-! CS rises and falls -/

/-- The request of the transaction in progress has been taken or refused. -/
def CpiFraming.answered : CpiFraming → Bool
  | .idle => false
  | .receiving _ => false
  | .responding _ _ => true
  | .done => true

theorem CpiFraming.answered_iff {f : CpiFraming} :
    f.answered = true ↔ f = .done ∨ ∃ r sent, f = .responding r sent := by
  cases f <;> simp [CpiFraming.answered]

theorem CpiFraming.answered_afterSending (r : Response) (sent : Nat) :
    (CpiFraming.afterSending r sent).answered = true := by
  unfold CpiFraming.afterSending
  split <;> rfl

section
variable {s : State} {p : Client}

theorem State.framing_setFraming (s : State) (p : Client) (f : CpiFraming) :
    ((s.setFraming p f).cpi p).framing = f := by
  rw [State.cpi_setFraming]

theorem State.framing_csRise (s : State) (p : Client) : ((s.csRise p).cpi p).framing = .idle := by
  unfold State.csRise
  cases h : (s.cpi p).framing with
  | idle => exact h
  | receiving before => cases before <;> exact State.framing_setFraming ..
  | responding r sent => exact State.framing_setFraming ..
  | done => exact State.framing_setFraming ..

theorem State.csRise_of_idle (h : (s.cpi p).framing = .idle) : s.csRise p = s := by
  unfold State.csRise
  rw [h]

/-- A request already taken stands when CS rises (R152). -/
theorem State.csRise_of_answered (h : (s.cpi p).framing.answered = true) :
    s.csRise p = s.setFraming p .idle := by
  unfold State.csRise
  rcases CpiFraming.answered_iff.mp h with done | ⟨r, sent, responding⟩
  · rw [done]
  · rw [responding]

theorem saturatingSucc_eq (n : Byte) : saturatingSucc n = if n = 255 then 255 else n + 1 := by
  unfold saturatingSucc
  split
  next full => exact full
  next => rfl

theorem State.linkError_eq (s : State) (p : Client) :
    s.linkError p = s.afterLinkError p (s.cpi p).framing := by
  unfold State.linkError State.afterLinkError
  dsimp only
  rw [saturatingSucc_eq]
  rfl

/-- A link error keeps nothing of the framing state that it found (R157). -/
theorem State.afterLinkError_setFraming (s : State) (p : Client) (f g : CpiFraming) :
    (s.setFraming p f).afterLinkError p g = s.afterLinkError p g := by
  unfold State.afterLinkError
  rw [State.cpi_setFraming]
  unfold State.setFraming State.setCpi
  dsimp only
  rw [Vec.set_set]

theorem State.setFraming_afterLinkError (s : State) (p : Client) (f g : CpiFraming) :
    (s.afterLinkError p f).setFraming p g = s.afterLinkError p g := by
  unfold State.afterLinkError State.setFraming State.setCpi State.cpi
  dsimp only
  rw [Vec.get_set, if_pos rfl, Vec.set_set]

/-- A request cut after a byte or more counts a link error, and one cut before its first byte does
not (R151, R157). -/
theorem State.csRise_of_receiving (s : State) (p : Client) (arrived : List Byte) :
    (s.setFraming p (.receiving arrived)).csRise p
      = if arrived = [] then s.setFraming p .idle else s.afterLinkError p .idle := by
  unfold State.csRise
  rw [State.framing_setFraming]
  cases arrived with
  | nil => exact State.setFraming_setFraming ..
  | cons b rest =>
    dsimp only
    rw [State.linkError_eq, State.setFraming_afterLinkError, State.afterLinkError_setFraming,
      if_neg (List.cons_ne_nil b rest)]

theorem State.csFall_of_idle (h : (s.cpi p).framing = .idle) :
    s.csFall p = s.setFraming p (.receiving []) := by
  unfold State.csFall
  rw [h]

theorem State.csFall_of_receiving {before : List Byte}
    (h : (s.cpi p).framing = .receiving before) : s.csFall p = s := by
  unfold State.csFall
  rw [h]

theorem State.csFall_of_answered (h : (s.cpi p).framing.answered = true) : s.csFall p = s := by
  unfold State.csFall
  rcases CpiFraming.answered_iff.mp h with done | ⟨r, sent, responding⟩
  · rw [done]
  · rw [responding]

/-- A falling CS without a byte after it leaves nothing that a rising one would not. -/
theorem State.csRise_csFall (s : State) (p : Client) : (s.csFall p).csRise p = s.csRise p := by
  cases h : (s.cpi p).framing with
  | idle =>
    rw [State.csFall_of_idle h, State.csRise_of_receiving, if_pos rfl, State.csRise_of_idle h,
      State.setFraming_self h]
  | receiving before => rw [State.csFall_of_receiving h]
  | responding r sent => rw [State.csFall_of_answered (h ▸ rfl)]
  | done => rw [State.csFall_of_answered (h ▸ rfl)]

/-! Bytes clocked after the request -/

/-- A byte clocked once the request is taken or refused changes how much of the response is out, and
nothing else (R150). -/
theorem State.clockByte_of_answered (h : (s.cpi p).framing.answered = true) (b : Byte) :
    ∃ f : CpiFraming, f.answered = true ∧ s.clockByte p b = s.setFraming p f := by
  unfold State.clockByte
  rcases CpiFraming.answered_iff.mp h with done | ⟨r, sent, responding⟩
  · rw [done]
    exact ⟨.done, rfl, (State.setFraming_self done).symm⟩
  · rw [responding]
    exact ⟨_, CpiFraming.answered_afterSending r (sent + 1), rfl⟩

theorem State.bytesArrive_of_answered (h : (s.cpi p).framing.answered = true)
    (arrived : List Byte) :
    ∃ f : CpiFraming, f.answered = true ∧ s.bytesArrive p arrived = s.setFraming p f := by
  induction arrived generalizing s with
  | nil => exact ⟨_, h, (State.setFraming_self rfl).symm⟩
  | cons b rest ih =>
    obtain ⟨f, answered, clocked⟩ := State.clockByte_of_answered h b
    obtain ⟨g, still, arrive⟩ := ih (s := s.setFraming p f) (by rwa [State.framing_setFraming])
    refine ⟨g, still, ?_⟩
    rw [State.bytesArrive_cons, clocked, arrive, State.setFraming_setFraming]

/-! The cut -/

/-- A request cut before its last byte: what arrived in all decides (R151). -/
theorem execCutTransaction_short {before arrived : List Byte}
    (falls : s.csFall p = s.setFraming p (.receiving before))
    (short : receive (before ++ arrived) = .short) :
    execCutTransaction p arrived s
      = .next (if before ++ arrived = [] then s.setFraming p .idle
          else s.afterLinkError p .idle) := by
  unfold execCutTransaction
  rw [falls, State.bytesArrive_short (State.framing_setFraming ..) short,
    State.setFraming_setFraming, State.csRise_of_receiving]

theorem execCutTransaction_answered (h : (s.cpi p).framing.answered = true)
    (arrived : List Byte) :
    execCutTransaction p arrived s = .next (s.setFraming p .idle) := by
  obtain ⟨f, answered, arrive⟩ := State.bytesArrive_of_answered h arrived
  unfold execCutTransaction
  rw [State.csFall_of_answered h, arrive, State.csRise_of_answered
    (by rwa [State.framing_setFraming]), State.setFraming_setFraming]

/-! A new frame (entry 2) -/

/-- A new transaction ends the one in progress as a rising CS does. -/
theorem State.beginTransaction_csRise (s : State) (p : Client) :
    (s.csRise p).beginTransaction p = s.beginTransaction p := by
  unfold State.beginTransaction
  rw [State.csRise_of_idle (s.framing_csRise p)]

theorem State.clientRequest_csRise (s : State) (p : Client) (q : ClientRequest) (tag : Byte)
    (params : List Byte) (crc : Byte) :
    (s.csRise p).clientRequest p q tag params crc = s.clientRequest p q tag params crc := by
  unfold State.clientRequest
  rw [State.beginTransaction_csRise]

end

/-- Settles O29: a frame of any kind reads the state only through the transaction that it begins. -/
theorem cutTransactionEndsIt : Obligations.CutTransactionEndsIt := by
  intro s p arrived code tag len params crc
  refine ⟨fun idle short => ?_, fun before receiving short => ?_, fun taken => ?_, fun _ =>
    ⟨s.csRise p, congrArg Host.Outcome.next (s.csRise_csFall p), fun row hrow => ?_, ?_, ?_⟩⟩
  · have cut := execCutTransaction_short (before := []) (State.csFall_of_idle idle) short
    rw [State.setFraming_self idle] at cut
    exact cut
  · exact execCutTransaction_short
      ((State.csFall_of_receiving receiving).trans (State.setFraming_self receiving).symm) short
  · exact execCutTransaction_answered (CpiFraming.answered_iff.mpr taken) arrived
  · obtain ⟨q, hq⟩ := clientRow_runs hrow
    rw [hq.exec, hq.exec, State.clientRequest_csRise]
  · show execClientUnknownRequest p code tag params crc s = execClientUnknownRequest ..
    unfold execClientUnknownRequest
    rw [State.beginTransaction_csRise]
  · show execClientBadLength p code tag len s = execClientBadLength ..
    unfold execClientBadLength
    rw [State.beginTransaction_csRise]

end Sys2Proof.Machine
end

section
/-! PROOF. A write to the supervisor port that is refused at its frame (R162, R163), and one that
ends before its request was taken (R161, R164). -/

namespace Sys2Proof.Machine

/-! The catalogue and the rows -/

/-- The request of the supervisor catalogue behind a row of the statements. -/
structure SupervisorRow.Runs (row : SupervisorRow) (q : SupervisorRequest) : Prop where
  code : q.code = row.code
  length : q.length = row.length
  exec : ∀ (tag : Byte) (params : List Byte) (crc : Byte) (s : State),
    Machine.exec (row.command tag params crc) s = .next (s.supervisorRequest q tag params crc)

/-- Every row of the statements runs a request of the catalogue. -/
theorem supervisorRow_runs {row : SupervisorRow} (h : row ∈ supervisorRows) :
    ∃ q, row.Runs q := by
  simp only [supervisorRows, List.mem_cons, List.not_mem_nil, or_false] at h
  rcases h with rfl | rfl | rfl | rfl | rfl | rfl | rfl | rfl | rfl | rfl | rfl | rfl | rfl | rfl
    | rfl | rfl | rfl | rfl
  · exact ⟨defineRequest, rfl, rfl, fun _ _ _ _ => rfl⟩
  · exact ⟨amendRequest, rfl, rfl, fun _ _ _ _ => rfl⟩
  · exact ⟨retireRequest, rfl, rfl, fun _ _ _ _ => rfl⟩
  · exact ⟨inspectResourceRequest, rfl, rfl, fun _ _ _ _ => rfl⟩
  · exact ⟨inspectQueueRequest, rfl, rfl, fun _ _ _ _ => rfl⟩
  · exact ⟨revokeRequest, rfl, rfl, fun _ _ _ _ => rfl⟩
  · exact ⟨bindGateRequest, rfl, rfl, fun _ _ _ _ => rfl⟩
  · exact ⟨unbindGateRequest, rfl, rfl, fun _ _ _ _ => rfl⟩
  · exact ⟨readGatesRequest, rfl, rfl, fun _ _ _ _ => rfl⟩
  · exact ⟨setPolicyRequest, rfl, rfl, fun _ _ _ _ => rfl⟩
  · exact ⟨evictRequest, rfl, rfl, fun _ _ _ _ => rfl⟩
  · exact ⟨inspectClientRequest, rfl, rfl, fun _ _ _ _ => rfl⟩
  · exact ⟨setTimebaseRequest, rfl, rfl, fun _ _ _ _ => rfl⟩
  · exact ⟨listDeadlinesRequest, rfl, rfl, fun _ _ _ _ => rfl⟩
  · exact ⟨readEventsRequest, rfl, rfl, fun _ _ _ _ => rfl⟩
  · exact ⟨ackEventsRequest, rfl, rfl, fun _ _ _ _ => rfl⟩
  · exact ⟨setEventMaskRequest, rfl, rfl, fun _ _ _ _ => rfl⟩
  · exact ⟨clearAllRequest, rfl, rfl, fun _ _ _ _ => rfl⟩

/-- A code that no row of the statements has names no supervisor request. -/
theorem supervisorRequestOf_eq_none {code : Byte}
    (h : (supervisorRows.all fun row => row.code != code) = true) :
    supervisorRequestOf code = none := by
  have codes : supervisorRows.map SupervisorRow.code
      = supervisorCatalogue.map SupervisorRequest.code := rfl
  have other : ∀ b ∈ supervisorCatalogue.map SupervisorRequest.code, b ≠ code := by
    rw [← codes, List.forall_mem_map]
    simpa using h
  refine List.find?_eq_none.mpr fun q hq => ?_
  simpa using other q.code (List.mem_map_of_mem hq)

/-! Frame refusals -/

section
variable {s : State} {code tag crc : Byte} {params : List Byte}

/-- A wrong CRC byte is refused before the code is looked up (R163). -/
theorem execSupervisorUnknownRequest_badFrame (hl : params.length ≤ 16)
    (hc : crc ≠ goodCrc code tag params) :
    execSupervisorUnknownRequest code tag params crc s
      = .next (s.afterStored tag .badFrame []) := by
  unfold execSupervisorUnknownRequest State.takeSupervisorFrame
  rw [if_neg (not_maxParams_lt hl), if_neg (mt Frame.intact_iff.mp hc),
    State.storeDecision_refusal]

/-- An intact frame whose code names no supervisor request is refused (R163). -/
theorem execSupervisorUnknownRequest_intact (hl : params.length ≤ 16)
    (hc : crc = goodCrc code tag params) (unknown : supervisorRequestOf code = none) :
    execSupervisorUnknownRequest code tag params crc s
      = .next (s.afterStored tag .unknownRequest []) := by
  unfold execSupervisorUnknownRequest State.takeSupervisorFrame
  rw [if_neg (not_maxParams_lt hl), if_pos (Frame.intact_iff.mpr hc), unknown]
  exact congrArg Host.Outcome.next (s.storeDecision_refusal .unknownRequest tag)

/-- A length byte of 17 or more is refused at its arrival (R162). -/
theorem execSupervisorBadLength_refused (code tag : Byte) {len : Byte} (hl : 17 ≤ len.toNat) :
    execSupervisorBadLength code tag len s = .next (s.afterStored tag .badLength []) := by
  unfold execSupervisorBadLength
  rw [State.dataArrive_badLength code tag len hl rfl, State.storeDecision_refusal]

end

/-- Settles O44: the CRC byte is checked first, then the code, then the length; the length byte is
refused before any of them. The write that the frame's START ended leaves nothing, since its
INCOMPLETE is replaced. -/
theorem supervisorFrameRefusals : Obligations.SupervisorFrameRefusals := by
  intro s code tag len params crc
  refine ⟨fun row hrow hl => ?_, fun unknown hl =>
    ⟨execSupervisorUnknownRequest_badFrame hl, fun hc =>
      execSupervisorUnknownRequest_intact hl hc (supervisorRequestOf_eq_none unknown)⟩,
    execSupervisorBadLength_refused code tag⟩
  obtain ⟨q, hq⟩ := supervisorRow_runs hrow
  rw [hq.exec, ← hq.code, ← hq.length]
  refine ⟨fun hc => ?_, fun hc misfit => ?_⟩
  · rw [s.supervisorRequest_badFrame q tag params crc hl hc]
  · rw [hc, s.supervisorRequest_badParams q tag params hl misfit]

/-! A write that ends early -/

/-- The tag echo of a cut write is its second byte, or 0 (R164). -/
theorem arrivedTag_eq_getD (bytes : List Byte) : arrivedTag bytes = bytes.getD 1 0 := by
  match bytes with
  | [] => rfl
  | [_] => rfl
  | _ :: _ :: _ => rfl

/-- A write in RECEIVING ends with INCOMPLETE stored (R164). -/
theorem State.endWrite_of_receiving {s : State} {buffer : List Byte}
    (h : s.supervisor.framing = .receiving buffer) :
    s.endWrite = s.storeStatus .incomplete (arrivedTag buffer) := by
  unfold State.endWrite
  rw [h]

/-- A new write whose bytes complete no request changes the port alone: its framing, and the stored
response where the START cut the write before it. -/
theorem State.beginWrite_dataArrive_short (s : State) {arrived : List Byte}
    (short : receive arrived = .short) :
    ∃ y : Response,
      s.beginWrite.dataArrive arrived = s.withPorts s.cpis (.receiving arrived) y := by
  obtain ⟨y, begun⟩ := s.beginWrite_eq
  have stored : s.beginWrite.dataArrive arrived
      = s.beginWrite.setSupervisorFraming (.receiving arrived) :=
    State.dataArrive_short (before := []) rfl short
  exact ⟨y, by rw [stored, begun]; rfl⟩

/-- Settles O45: the bytes are in the receive buffer when the write ends, and the INCOMPLETE it
leaves replaces whatever response was stored before it. -/
theorem incompleteWriteLeavesItsMark : Obligations.IncompleteWriteLeavesItsMark := by
  intro s arrived ending short
  obtain ⟨y, received⟩ := s.beginWrite_dataArrive_short short
  have ended : (s.beginWrite.dataArrive arrived).endWrite
      = (s.withPorts s.cpis (.receiving arrived) y).storeStatus .incomplete
          (arrived.getD 1 0) := by
    rw [received, State.endWrite_of_receiving rfl, arrivedTag_eq_getD]
  have run : exec (.incomplete arrived ending) s
      = .next ((s.beginWrite.dataArrive arrived).endWrite.setSupervisorFraming
          (framingAfter ending)) := rfl
  rw [run, ended]
  rfl

end Sys2Proof.Machine
end

section
/-! PROOF. The event set and its mask: READ EVENTS (R168), ACK EVENTS (R169), SET EVENT MASK and the
level of SATTN (R170). -/

namespace Sys2Proof.Machine

/-! A set of the eleven sources -/

theorem flagsBelow_of_fits {w n : Nat} {v : BitVec w} (h : v.toNat < 2 ^ n) :
    flagsBelow n v = some (v.setWidth n) := if_pos h

theorem flagsBelow_of_over {w n : Nat} {v : BitVec w} (h : 2 ^ n ≤ v.toNat) :
    flagsBelow n v = none := if_neg (Nat.not_lt_of_le h)

section
variable (s : State) {e1 e0 : Byte}

theorem ackEventsRule_of_over (h : 2048 ≤ (half e1 e0).toNat) :
    ackEventsRule [e1, e0] s = s.answer .badParams := by
  unfold ackEventsRule
  dsimp only
  rw [flagsBelow_of_over h]

theorem ackEventsRule_of_fits (h : (half e1 e0).toNat < 2048) :
    ackEventsRule [e1, e0] s
      = (s.acknowledge ((half e1 e0).setWidth 11)).reply .ok
          (bytesOf 2
            ((s.supervisor.events &&& ~~~((half e1 e0).setWidth 11)).setWidth 16)) := by
  unfold ackEventsRule
  dsimp only
  rw [flagsBelow_of_fits h]
  rfl

theorem setEventMaskRule_of_over (h : 2048 ≤ (half e1 e0).toNat) :
    setEventMaskRule [e1, e0] s = s.answer .badParams := by
  unfold setEventMaskRule
  dsimp only
  rw [flagsBelow_of_over h]

theorem setEventMaskRule_of_fits (h : (half e1 e0).toNat < 2048) :
    setEventMaskRule [e1, e0] s
      = (s.setSupervisor
          { s.supervisor with mask := (half e1 e0).setWidth 11 }).answer .ok := by
  unfold setEventMaskRule
  dsimp only
  rw [flagsBelow_of_fits h]

end

/-! The three requests -/

section
variable {s t : State} {st : Status} {payload : List Byte}

/-- A request of the right length leaves the state its rule decides on, with the answer stored. -/
theorem State.supervisorRequest_decided {q : SupervisorRequest} {params : List Byte} (tag : Byte)
    (hq : q.length ≤ 16) (hl : params.length = q.length) (hP : PortFree (q.rule params))
    (hrule : q.rule params s = t.reply st payload) :
    s.supervisorRequest q tag params (goodCrc q.code tag params)
      = t.afterStored tag st payload :=
  State.supervisorRequest_accepted_reply (checks := []) hq hl hP hrule rfl

theorem exec_readEvents (s : State) (tag : Byte) :
    exec (.readEvents tag [] (goodCrc 0x68 tag [])) s
      = .next (s.afterStored tag .ok
          (bytesOf 2 (s.supervisor.events.setWidth 16)
            ++ bytesOf 2 (s.supervisor.mask.setWidth 16))) :=
  congrArg Host.Outcome.next
    (State.supervisorRequest_decided (q := readEventsRequest) tag (by decide) rfl
      (portFree_readEvents []) rfl)

theorem exec_ackEvents {e1 e0 : Byte} (tag : Byte)
    (hrule : ackEventsRule [e1, e0] s = t.reply st payload) :
    exec (.ackEvents tag [e1, e0] (goodCrc 0x69 tag [e1, e0])) s
      = .next (t.afterStored tag st payload) :=
  congrArg Host.Outcome.next
    (State.supervisorRequest_decided (q := ackEventsRequest) tag (by decide) rfl
      (portFree_ackEvents [e1, e0]) hrule)

theorem exec_setEventMask {e1 e0 : Byte} (tag : Byte)
    (hrule : setEventMaskRule [e1, e0] s = t.reply st payload) :
    exec (.setEventMask tag [e1, e0] (goodCrc 0x6A tag [e1, e0])) s
      = .next (t.afterStored tag st payload) :=
  congrArg Host.Outcome.next
    (State.supervisorRequest_decided (q := setEventMaskRequest) tag (by decide) rfl
      (portFree_setEventMask [e1, e0]) hrule)

end

/-! SATTN -/

/-- Two sets of flags meet where some flag is in both. -/
theorem and_ne_zero_iff_exists_common {n : Nat} {x y : BitVec n} :
    x &&& y ≠ 0 ↔ ∃ k : Fin n, x.getLsbD k.val = true ∧ y.getLsbD k.val = true := by
  constructor
  · intro meet
    by_contra apart
    refine meet (BitVec.eq_of_getLsbD_eq fun i hi => ?_)
    have notBoth : ¬(x.getLsbD i = true ∧ y.getLsbD i = true) :=
      fun both => apart ⟨⟨i, hi⟩, both⟩
    simpa using notBoth
  · rintro ⟨k, hx, hy⟩ zero
    have bit : (x &&& y).getLsbD k.val = true := by rw [BitVec.getLsbD_and, hx, hy]; rfl
    rw [zero] at bit
    simp at bit

theorem State.supervisorAttention_iff (s : State) :
    s.supervisorAttention = true
      ↔ ∃ k : Fin 11, s.supervisor.events.getLsbD k.val = true
          ∧ s.supervisor.mask.getLsbD k.val = true :=
  bne_iff_ne.trans and_ne_zero_iff_exists_common

/-- Settles O42: the two requests that name sources are refused when a bit above the eleven is set,
and else write the set or the mask; SATTN is read off the two. -/
theorem eventSetRequests : Obligations.EventSetRequests := by
  intro s tag e1 e0
  refine ⟨exec_readEvents s tag, fun large => ⟨?_, ?_⟩, fun fits => ⟨?_, ?_⟩,
    s.supervisorAttention_iff⟩
  · exact exec_ackEvents tag (ackEventsRule_of_over s large)
  · exact exec_setEventMask tag (setEventMaskRule_of_over s large)
  · exact exec_ackEvents tag (ackEventsRule_of_fits s fits)
  · exact exec_setEventMask tag (setEventMaskRule_of_fits s fits)

end Sys2Proof.Machine
end

section
/-! PROOF. The CRC of both ports (R174): its register, the bytes it covers, and what a wrong CRC
byte comes to on either port. -/

namespace Sys2Proof.Machine

/-! The register -/

/-- The bit that a shift moves out is bit 7 of the register. -/
theorem crcShift_eq (reg : Byte) :
    crcShift reg = if reg.getLsbD 7 then (reg <<< 1) ^^^ 0x9B else reg <<< 1 := by
  unfold crcShift
  rw [BitVec.msb_eq_getLsbD_last]

/-- A covered byte is combined into the register, which is then shifted eight times. -/
theorem crcByte_eq_foldl (reg b : Byte) :
    crcByte reg b
      = (List.range 8).foldl
          (fun reg _ => if reg.getLsbD 7 then (reg <<< 1) ^^^ 0x9B else reg <<< 1)
          (reg ^^^ b) := by
  simp only [← crcShift_eq]
  rfl

theorem crcOf_concat (bytes : List Byte) (b : Byte) :
    crcOf (bytes ++ [b]) = crcByte (crcOf bytes) b :=
  List.foldl_concat ..

/-! The check at the CRC byte -/

/-- A wrong CRC byte is refused on a client port before anything else of the frame is read
(R148). -/
theorem State.takeFrame_badFrame (s : State) (p : Client) (q : Option ClientRequest) {f : Frame}
    (wrong : f.crc ≠ goodCrc f.code f.tag f.params) :
    s.takeFrame p q f = s.refuseFrame p .badFrame f.tag :=
  if_neg (mt Frame.intact_iff.mp wrong)

/-- A wrong CRC byte is refused on the supervisor port before anything else of the frame is read
(R163). -/
theorem State.takeSupervisorFrame_badFrame (s : State) (q : Option SupervisorRequest) {f : Frame}
    (wrong : f.crc ≠ goodCrc f.code f.tag f.params) :
    s.takeSupervisorFrame q f = State.storeDecision (s.answer .badFrame) f.tag :=
  if_neg (mt Frame.intact_iff.mp wrong)

/-! The bytes covered in a response -/

/-- The CRC of a response covers its flags byte, which is 1 in a replay and else 0. -/
theorem Response.covered_eq (r : Response) :
    r.covered = r.status.code :: r.tag :: (if r.replay then 1 else 0)
      :: countByte r.payload.length :: r.payload := rfl

/-- Settles O4: the register byte by byte from its start value, the covered bytes of a request and
of a response, and the first check at the CRC byte of either port. -/
theorem crcOfEveryFrame : Obligations.CrcOfEveryFrame := by
  intro bytes b f r s p
  have start : crcOf [] = 0xFF := rfl
  have checkValue : crcOf [0x01, 0x00, 0x00] = 0x98 := by decide +kernel
  refine ⟨start, ?_, rfl, fun wrong =>
    ⟨s.takeFrame_badFrame p _ wrong, s.takeSupervisorFrame_badFrame _ wrong⟩, ?_, checkValue⟩
  · rw [crcOf_concat, crcByte_eq_foldl]
  · rw [← r.covered_eq, Response.bytes]

end Sys2Proof.Machine
end
